-- ==== Sys2Proof/Word.lean ====
section
/-! DEFINITION. The word types of the c8js CHIP-8 engine: bytes, 16-bit words, the immediates' widths and register
numbers (spec/10_state.md R14, spec/30_encoding.md R44). -/

namespace Sys2Proof

/-- One byte: a general register, a timer or a memory location (R15, R20, R24). -/
abbrev Byte := BitVec 8

/-- A 16-bit word: PC, I, a stack entry or an instruction word (R17, R18, R19, R43). -/
abbrev Word := BitVec 16

/-- A 4-bit instruction field (R44). -/
abbrev Nibble := BitVec 4

/-- The 12-bit immediate `nnn` (R44). -/
abbrev Addr12 := BitVec 12

/-- The number of a general register, `0x0` to `0xF` (R15). -/
abbrev RegIdx := Fin 16

end Sys2Proof
end

