-- ==== Sys2Proof/Config.lean ====
section
/-! DEFINITION. The sizes of spec/00_scope.md R6 and the one free value of the machine, the random byte of R93. -/

namespace Sys2Proof

/-- `MEM_SIZE`: memory bytes, addresses 0x000 to 0xFFF (R6). -/
def Config.memSize : Nat := 0x1000

/-- `PROG_BASE`: the program load address and the initial PC (R6). -/
def Config.progBase : Nat := 0x200

/-- `STACK_CAP`: the capacity of the call stack in frames (R6). -/
def Config.stackCap : Nat := 16

/-- `FB_ROWS` (R6). -/
abbrev Config.fbRows : Nat := 32

/-- `FB_COLS` (R6). -/
abbrev Config.fbCols : Nat := 64

/-- `RAND`: the byte of the k-th draw of the machine (R7, R93; decision D16). A free value: it has no body, so a
statement that mentions it holds whatever bytes the generator gives. DESIGN CHOICE, safe (log 6). -/
opaque Config.rand : Nat → Byte

end Sys2Proof
end

