-- ==== Sys2Proof/Machine/Font.lean ====
section
/-! DEFINITION. `FONT`, the machine's parameter of spec/00_scope.md R7: 80 bytes, with the default table of
spec/10_state.md R21. -/

namespace Sys2Proof.Machine

/-- `FONT`: the 80 bytes at 0x000 to 0x04F, 16 glyphs of 5 bytes, glyph d at 5d (R6, R7, R21). A machine is given its
font at construction (R131); every definition that needs it takes it as an argument (log 2). -/
abbrev Font := Vector Byte 80

/-- The default table of R21 as bytes, one glyph a line. PRESUMED: the spec's decision D2 (log 2). -/
def defaultGlyphs : List Byte :=
  [0xF0, 0x90, 0x90, 0x90, 0xF0] ++
  [0x20, 0x60, 0x20, 0x20, 0x70] ++
  [0xF0, 0x10, 0xF0, 0x80, 0xF0] ++
  [0xF0, 0x10, 0xF0, 0x10, 0xF0] ++
  [0x90, 0x90, 0xF0, 0x10, 0x10] ++
  [0xF0, 0x80, 0xF0, 0x10, 0xF0] ++
  [0xF0, 0x80, 0xF0, 0x90, 0xF0] ++
  [0xF0, 0x10, 0x20, 0x40, 0x40] ++
  [0xF0, 0x90, 0xF0, 0x90, 0xF0] ++
  [0xF0, 0x90, 0xF0, 0x10, 0xF0] ++
  [0xF0, 0x90, 0xF0, 0x90, 0x90] ++
  [0xE0, 0x90, 0xE0, 0x90, 0xE0] ++
  [0xF0, 0x80, 0x80, 0x80, 0xF0] ++
  [0xE0, 0x90, 0x90, 0x90, 0xE0] ++
  [0xF0, 0x80, 0xF0, 0x80, 0xF0] ++
  [0xF0, 0x80, 0xF0, 0x80, 0x80]

/-- The default value of `FONT` (R7, R21). -/
def defaultFont : Font := Vector.ofFn fun k => defaultGlyphs.getD k.val 0

end Sys2Proof.Machine
end

