-- ==== Sys2Proof/Machine/State.lean ====
section
/-! DEFINITION. The state of the block as plain data: exactly the tuple of spec/10_state.md R14, the fault record of
spec/60_exceptions.md R107, the parameter `FONT` beside the memory (log 2), and the model's own draw
counter (log 6); the reset state of R28 and R130. -/

namespace Sys2Proof.Machine

/-- The four kinds of fault, in the order of their codes 0 to 3 (R106). -/
inductive FaultKind where
  /-- A memory address above 0xFFF: a fetch, `Dxyn`, `Fx33`, `Fx55`, `Fx65`. -/
  | outOfBoundsAccess
  /-- `2nnn` with 16 entries on the stack. -/
  | stackOverflow
  /-- `00EE` with an empty stack. -/
  | stackUnderflow
  /-- The load of an image of more than 3584 bytes; never an instruction. -/
  | programTooLarge
  deriving DecidableEq, Repr

/-- What a primitive raises: `Fault(kind, info)` of R10. -/
structure Trap where
  kind : FaultKind
  /-- The out-of-range address, the length of a too large image, or none for a stack fault (R107). -/
  addr : Option Nat
  deriving DecidableEq, Repr

/-- The record a fault latches (R107). -/
structure FaultRecord where
  kind : FaultKind
  /-- The address of the faulting instruction; the reset value for a load fault. -/
  pc : Word
  /-- The fetched word; none for a fetch fault or a load fault. -/
  word : Option Word
  /-- An unbounded number: an effective address is never reduced (R31), a length has no bound (R132). -/
  addr : Option Nat
  deriving DecidableEq, Repr

/-- The named states of the Interpreter, derived from three latches (R25). -/
inductive RunState where
  | running
  | waitingForKey
  | halted
  deriving DecidableEq, Repr

/-- The framebuffer: 32 rows of 64 cells, `true` for a lit cell (R22). -/
abbrev Framebuffer := Vector (Vector Bool Config.fbCols) Config.fbRows

/-- Memory cells: addresses with their bytes. -/
abbrev Cells := List Host.Cell

/-- Memory over its reset contents. In the canonical form the addresses of the cells rise strictly and no cell equals
what its address reads as unlisted (log 17). Sys2Proof/Machine/Memory.lean reads, writes and checks it. -/
structure Memory where
  /-- The PARAMETER `FONT` of this machine (R7, R21), fixed at construction: no element of the block; no step and no
  transaction writes it, and reset restores the memory from it (log 2). -/
  font : Font
  /-- The bytes that differ from the reset contents. -/
  cells : Cells
  deriving DecidableEq, Repr

/-- The state of the block (R14). -/
structure State where
  /-- `V[0..15]` (R15). -/
  v : Vector Byte 16
  /-- `I` (R17). -/
  i : Word
  /-- `PC` (R18). -/
  pc : Word
  /-- `STACK`, oldest entry first, the top last (R19). -/
  stack : List Word
  /-- `MEM` (R20). -/
  mem : Memory
  /-- `FB` (R22). -/
  fb : Framebuffer
  /-- `KEY[0..15]`, `true` for a pressed key (R23). -/
  keys : Vector Bool 16
  /-- `WAIT` (R23). -/
  wait : Option RegIdx
  /-- `DT` (R24). -/
  dt : Byte
  /-- `ST` (R24). -/
  st : Byte
  /-- `PAUSED` (R25). -/
  paused : Bool
  /-- `FAULT` (R25, R107). -/
  fault : Option FaultRecord
  /-- `DIRTY` (R26). -/
  dirty : Bool
  /-- The MODEL'S OWN field, no state of the block: how many random bytes have been drawn (R93; log 6). -/
  draws : Nat
  deriving DecidableEq, Repr

/-- The outcome `fault` of a step has NO reason in this model: each of the four faults of R106 has an entry that the
spec describes (R58, R108), so a step that faults goes to the next state with `FAULT` latched, and every later step is
idle. Safe (log 4). -/
inductive Fault where
  deriving DecidableEq, Repr

/-- The reasons for which a step could have no meaning. -/
inductive Refusal where
  /-- The instruction has no meaning yet: raised by an arm of `exec` only, and by none, since every instruction has its
  meaning. Safe: nothing is claimed of the instruction. -/
  | notModelled (mnemonic : String)
  deriving DecidableEq, Repr

/-- The state of a machine at construction with a given `FONT`, which is the state its reset gives (R28, R130, R131).
`draws` is the model's own (log 6). -/
def State.construct (font : Font) : State where
  v := Vector.replicate 16 0
  i := 0
  pc := 0x200
  stack := []
  mem := ⟨font, []⟩
  fb := Vector.replicate Config.fbRows (Vector.replicate Config.fbCols false)
  keys := Vector.replicate 16 false
  wait := none
  dt := 0
  st := 0
  paused := false
  fault := none
  dirty := true
  draws := 0

/-- The state after reset of the machine whose `FONT` is the default (R7, R21, R28; log 2). -/
def State.reset : State := State.construct defaultFont

end Sys2Proof.Machine
end

