-- ==== Sys2Proof/Machine/Framebuffer.lean ====
section
/-! DEFINITION. The framebuffer and its primitive `drawSprite` (spec/10_state.md R22, spec/41_display.md R63). -/

namespace Sys2Proof.Machine

/-- `FB[r][c]` (R22). -/
def Framebuffer.get (fb : Framebuffer) (r : Fin Config.fbRows) (c : Fin Config.fbCols) : Bool := fb[r.val][c.val]

/-- `FB[r][c] <- b` (R22). -/
def Framebuffer.set (fb : Framebuffer) (r : Fin Config.fbRows) (c : Fin Config.fbCols) (b : Bool) : Framebuffer :=
  Vector.set fb r.val (fb[r.val].set c.val b)

/-- The grid with every cell unlit (R62). -/
def Framebuffer.blank : Framebuffer := Vector.replicate Config.fbRows (Vector.replicate Config.fbCols false)

/-- A row coordinate, wrapped modulo 32 (R22, R63). -/
def wrapRow (r : Nat) : Fin Config.fbRows := ⟨r % Config.fbRows, Nat.mod_lt _ (by decide)⟩

/-- A column coordinate, wrapped modulo 64 (R22, R63). -/
def wrapCol (c : Nat) : Fin Config.fbCols := ⟨c % Config.fbCols, Nat.mod_lt _ (by decide)⟩

/-- Column offset `c` of a sprite byte: its bit 7 - c, the most significant bit leftmost (R63; decision D3, log 3). -/
def spriteBit (row : Byte) (c : Nat) : Bool := row.getLsbD (7 - c)

/-- A grid under drawing and whether a set bit has met a lit cell so far. -/
structure Drawing where
  fb : Framebuffer
  collision : Bool
  deriving DecidableEq, Repr

/-- One set sprite bit: a lit cell is a collision, and the cell is inverted (R63). -/
def Drawing.plot (d : Drawing) (r : Fin Config.fbRows) (c : Fin Config.fbCols) : Drawing where
  fb := d.fb.set r c (!d.fb.get r c)
  collision := d.collision || d.fb.get r c

/-- The columns `c` to 7 of one sprite row at origin column `ox`; `k` columns remain. A clear bit leaves its cell
unchanged (R63). -/
def Drawing.columns (ty : Fin Config.fbRows) (ox : Nat) (row : Byte) : Nat → Drawing → Drawing
  | 0, d => d
  | k + 1, d =>
    let c := 7 - k
    Drawing.columns ty ox row k (if spriteBit row c then d.plot ty (wrapCol (ox + c)) else d)

/-- The sprite rows from row coordinate `oy` down (R63). -/
def Drawing.rows (ox oy : Nat) : List Byte → Drawing → Drawing
  | [], d => d
  | row :: rest, d => Drawing.rows ox (oy + 1) rest (Drawing.columns (wrapRow oy) ox row 8 d)

/-- `drawSprite(ox, oy, rows)`: the new grid and the collision (R63). That it marks the buffer dirty is written in the
meaning of `Dxyn`. -/
def drawSprite (fb : Framebuffer) (ox oy : Nat) (rows : List Byte) : Drawing := Drawing.rows ox oy rows ⟨fb, false⟩

end Sys2Proof.Machine
end

