-- ==== Sys2Proof/Syntax.lean ====
section
/-! DEFINITION. The 34 instructions of spec/30_encoding.md R46, in the table's order, one constructor a row. -/

namespace Sys2Proof

/-- An instruction of the opcode table (R46). `x` and `y` are register numbers, `nn`, `nnn` and `n` the unsigned
immediates of R44; no instruction has another operand form (R45). -/
inductive Instr where
  /-- `00E0` CLS (R62). -/
  | cls
  /-- `00EE` RET (R67). -/
  | ret
  /-- `1nnn` JP nnn (R68). -/
  | jp (nnn : Addr12)
  /-- `2nnn` CALL nnn (R69). -/
  | call (nnn : Addr12)
  /-- `3xnn` SE Vx, nn (R74). -/
  | seImm (x : RegIdx) (nn : Byte)
  /-- `4xnn` SNE Vx, nn (R75). -/
  | sneImm (x : RegIdx) (nn : Byte)
  /-- `5xy0` SE Vx, Vy (R76). -/
  | seReg (x y : RegIdx)
  /-- `6xnn` LD Vx, nn (R81). -/
  | ldImm (x : RegIdx) (nn : Byte)
  /-- `7xnn` ADD Vx, nn (R82). -/
  | addImm (x : RegIdx) (nn : Byte)
  /-- `8xy0` LD Vx, Vy (R83). -/
  | ldReg (x y : RegIdx)
  /-- `8xy1` OR Vx, Vy (R84). -/
  | orReg (x y : RegIdx)
  /-- `8xy2` AND Vx, Vy (R85). -/
  | andReg (x y : RegIdx)
  /-- `8xy3` XOR Vx, Vy (R86). -/
  | xorReg (x y : RegIdx)
  /-- `8xy4` ADD Vx, Vy (R88). -/
  | addReg (x y : RegIdx)
  /-- `8xy5` SUB Vx, Vy (R89). -/
  | subReg (x y : RegIdx)
  /-- `8xy6` SHR Vx, Vy (R90); `y` is encoded and not read. -/
  | shrReg (x y : RegIdx)
  /-- `8xy7` SUBN Vx, Vy (R91). -/
  | subnReg (x y : RegIdx)
  /-- `8xyE` SHL Vx, Vy (R92); `y` is encoded and not read. -/
  | shlReg (x y : RegIdx)
  /-- `9xy0` SNE Vx, Vy (R77). -/
  | sneReg (x y : RegIdx)
  /-- `Annn` LD I, nnn (R95). -/
  | ldI (nnn : Addr12)
  /-- `Bnnn` JP V0, nnn (R70). -/
  | jpV0 (nnn : Addr12)
  /-- `Cxnn` RND Vx, nn (R93). -/
  | rnd (x : RegIdx) (nn : Byte)
  /-- `Dxyn` DRW Vx, Vy, n (R64). -/
  | drw (x y : RegIdx) (n : Nibble)
  /-- `Ex9E` SKP Vx (R78). -/
  | skp (x : RegIdx)
  /-- `ExA1` SKNP Vx (R79). -/
  | sknp (x : RegIdx)
  /-- `Fx07` LD Vx, DT (R102). -/
  | ldVxDt (x : RegIdx)
  /-- `Fx0A` LD Vx, K (R103). -/
  | ldVxK (x : RegIdx)
  /-- `Fx15` LD DT, Vx (R104). -/
  | ldDtVx (x : RegIdx)
  /-- `Fx18` LD ST, Vx (R105). -/
  | ldStVx (x : RegIdx)
  /-- `Fx1E` ADD I, Vx (R96). -/
  | addI (x : RegIdx)
  /-- `Fx29` LD F, Vx (R97). -/
  | ldF (x : RegIdx)
  /-- `Fx33` LD B, Vx (R98). -/
  | ldB (x : RegIdx)
  /-- `Fx55` LD [I], Vx (R99). -/
  | stRegs (x : RegIdx)
  /-- `Fx65` LD Vx, [I] (R100). -/
  | ldRegs (x : RegIdx)
  deriving DecidableEq, Repr

end Sys2Proof
end

