-- ==== Sys2Proof/WellFormed.lean ====
section
/-! DEFINITION. The operand ranges of spec/30_encoding.md R44 and R45 and the check that an instruction's operands lie
in them. The types of Instr hold each operand in its range already, so every term of Instr passes; the four range
checks themselves refuse a raw number out of range (Sys2Proof/Tests/Slice0.lean shows one for each). -/

namespace Sys2Proof

/-- A register number is 0 to 15 (R44, R51). -/
def regInRange (k : Nat) : Bool := decide (k < 16)

/-- `nn` is a byte, 0 to 255 (R45). -/
def nnInRange (k : Nat) : Bool := decide (k < 256)

/-- `nnn` is a 12-bit address, 0 to 0xFFF (R45). -/
def nnnInRange (k : Nat) : Bool := decide (k < 4096)

/-- `n` is a count 0 to 15 (R45). -/
def nInRange (k : Nat) : Bool := decide (k < 16)

/-- Every operand of the instruction lies in the range its field of R44 can hold. -/
def Instr.wellFormed : Instr → Bool
  | .cls | .ret => true
  | .jp nnn | .call nnn | .ldI nnn | .jpV0 nnn => nnnInRange nnn.toNat
  | .seImm x nn | .sneImm x nn | .ldImm x nn | .addImm x nn | .rnd x nn => regInRange x.val && nnInRange nn.toNat
  | .seReg x y | .ldReg x y | .orReg x y | .andReg x y | .xorReg x y | .addReg x y | .subReg x y | .shrReg x y
  | .subnReg x y | .shlReg x y | .sneReg x y => regInRange x.val && regInRange y.val
  | .drw x y n => regInRange x.val && regInRange y.val && nInRange n.toNat
  | .skp x | .sknp x | .ldVxDt x | .ldVxK x | .ldDtVx x | .ldStVx x | .addI x | .ldF x | .ldB x | .stRegs x
  | .ldRegs x => regInRange x.val

end Sys2Proof
end

