-- ==== Sys2Proof/Decode.lean ====
section
/-! DEFINITION. Fields, decoder and encoder of the one instruction format (spec/30_encoding.md R43 to R50), written from
the opcode map of R46, and the map's match and mask columns beside them. -/

namespace Sys2Proof

/-! ### Fields (R44) -/

/-- `op = w[15:12]`. -/
def fieldOp (w : Word) : Nibble := w.extractLsb' 12 4

/-- `x = w[11:8]`. -/
def fieldX (w : Word) : RegIdx := (w.extractLsb' 8 4).toFin

/-- `y = w[7:4]`. -/
def fieldY (w : Word) : RegIdx := (w.extractLsb' 4 4).toFin

/-- `n = w[3:0]`. -/
def fieldN (w : Word) : Nibble := w.extractLsb' 0 4

/-- `nn = w[7:0]`. -/
def fieldNN (w : Word) : Byte := w.extractLsb' 0 8

/-- `nnn = w[11:0]`. -/
def fieldNNN (w : Word) : Addr12 := w.extractLsb' 0 12

/-! ### Decoder -/

/-- The spaces of unmapped words (R48): why a word is no instruction. A step runs such a word as a no-op (R57). -/
inductive Unmapped where
  /-- `0x0000` to `0x0FFF` except `00E0` and `00EE`. -/
  | group0
  /-- `5xyN` with N not 0. -/
  | group5
  /-- `8xyN` with N one of 8, 9, A, B, C, D, F. -/
  | group8
  /-- `9xyN` with N not 0. -/
  | group9
  /-- `ExNN` with NN neither 9E nor A1. -/
  | groupE
  /-- `FxNN` with NN none of 07, 0A, 15, 18, 1E, 29, 33, 55, 65. -/
  | groupF
  deriving DecidableEq, Repr

/-- Group 0: the two whole words of R46 rows 1 and 2. -/
def decode0 (w : Word) : Except Unmapped Instr :=
  if w = 0x00E0#16 then .ok .cls
  else if w = 0x00EE#16 then .ok .ret
  else .error .group0

/-- Group 8: R46 rows 10 to 18, told apart by `n`. -/
def decode8 (x y : RegIdx) (n : Nibble) : Except Unmapped Instr :=
  match n.toNat with
  | 0x0 => .ok (.ldReg x y)
  | 0x1 => .ok (.orReg x y)
  | 0x2 => .ok (.andReg x y)
  | 0x3 => .ok (.xorReg x y)
  | 0x4 => .ok (.addReg x y)
  | 0x5 => .ok (.subReg x y)
  | 0x6 => .ok (.shrReg x y)
  | 0x7 => .ok (.subnReg x y)
  | 0xE => .ok (.shlReg x y)
  | _ => .error .group8

/-- Group E: R46 rows 24 and 25, told apart by `nn`. -/
def decodeE (x : RegIdx) (nn : Byte) : Except Unmapped Instr :=
  if nn = 0x9E#8 then .ok (.skp x)
  else if nn = 0xA1#8 then .ok (.sknp x)
  else .error .groupE

/-- Group F: R46 rows 26 to 34, told apart by `nn`. -/
def decodeF (x : RegIdx) (nn : Byte) : Except Unmapped Instr :=
  if nn = 0x07#8 then .ok (.ldVxDt x)
  else if nn = 0x0A#8 then .ok (.ldVxK x)
  else if nn = 0x15#8 then .ok (.ldDtVx x)
  else if nn = 0x18#8 then .ok (.ldStVx x)
  else if nn = 0x1E#8 then .ok (.addI x)
  else if nn = 0x29#8 then .ok (.ldF x)
  else if nn = 0x33#8 then .ok (.ldB x)
  else if nn = 0x55#8 then .ok (.stRegs x)
  else if nn = 0x65#8 then .ok (.ldRegs x)
  else .error .groupF

/-- The decoder, total on all 65536 words: the row of R46 that the word matches, or the space of unmapped words it
lies in (R48, R56). Every fixed nibble must match exactly (R46; decision D14, log 12). -/
def decode (w : Word) : Except Unmapped Instr :=
  match (fieldOp w).toNat with
  | 0x0 => decode0 w
  | 0x1 => .ok (.jp (fieldNNN w))
  | 0x2 => .ok (.call (fieldNNN w))
  | 0x3 => .ok (.seImm (fieldX w) (fieldNN w))
  | 0x4 => .ok (.sneImm (fieldX w) (fieldNN w))
  | 0x5 => if fieldN w = 0x0#4 then .ok (.seReg (fieldX w) (fieldY w)) else .error .group5
  | 0x6 => .ok (.ldImm (fieldX w) (fieldNN w))
  | 0x7 => .ok (.addImm (fieldX w) (fieldNN w))
  | 0x8 => decode8 (fieldX w) (fieldY w) (fieldN w)
  | 0x9 => if fieldN w = 0x0#4 then .ok (.sneReg (fieldX w) (fieldY w)) else .error .group9
  | 0xA => .ok (.ldI (fieldNNN w))
  | 0xB => .ok (.jpV0 (fieldNNN w))
  | 0xC => .ok (.rnd (fieldX w) (fieldNN w))
  | 0xD => .ok (.drw (fieldX w) (fieldY w) (fieldN w))
  | 0xE => decodeE (fieldX w) (fieldNN w)
  | _ => decodeF (fieldX w) (fieldNN w)

/-! ### Encoder -/

/-- The word whose four nibbles are `op x y n`. -/
def wordXYN (op : Nibble) (x y : RegIdx) (n : Nibble) : Word :=
  (op ++ BitVec.ofFin (w := 4) x ++ BitVec.ofFin (w := 4) y ++ n : BitVec 16)

/-- The word with fields `op`, `x` and `nn`. -/
def wordXNN (op : Nibble) (x : RegIdx) (nn : Byte) : Word :=
  (op ++ BitVec.ofFin (w := 4) x ++ nn : BitVec 16)

/-- The word with fields `op` and `nnn`. -/
def wordNNN (op : Nibble) (nnn : Addr12) : Word :=
  (op ++ nnn : BitVec 16)

/-- The word of an instruction: its row's pattern in R46 with the operands in their fields (R44). -/
def encode : Instr → Word
  | .cls => 0x00E0#16
  | .ret => 0x00EE#16
  | .jp nnn => wordNNN 0x1#4 nnn
  | .call nnn => wordNNN 0x2#4 nnn
  | .seImm x nn => wordXNN 0x3#4 x nn
  | .sneImm x nn => wordXNN 0x4#4 x nn
  | .seReg x y => wordXYN 0x5#4 x y 0x0#4
  | .ldImm x nn => wordXNN 0x6#4 x nn
  | .addImm x nn => wordXNN 0x7#4 x nn
  | .ldReg x y => wordXYN 0x8#4 x y 0x0#4
  | .orReg x y => wordXYN 0x8#4 x y 0x1#4
  | .andReg x y => wordXYN 0x8#4 x y 0x2#4
  | .xorReg x y => wordXYN 0x8#4 x y 0x3#4
  | .addReg x y => wordXYN 0x8#4 x y 0x4#4
  | .subReg x y => wordXYN 0x8#4 x y 0x5#4
  | .shrReg x y => wordXYN 0x8#4 x y 0x6#4
  | .subnReg x y => wordXYN 0x8#4 x y 0x7#4
  | .shlReg x y => wordXYN 0x8#4 x y 0xE#4
  | .sneReg x y => wordXYN 0x9#4 x y 0x0#4
  | .ldI nnn => wordNNN 0xA#4 nnn
  | .jpV0 nnn => wordNNN 0xB#4 nnn
  | .rnd x nn => wordXNN 0xC#4 x nn
  | .drw x y n => wordXYN 0xD#4 x y n
  | .skp x => wordXNN 0xE#4 x 0x9E#8
  | .sknp x => wordXNN 0xE#4 x 0xA1#8
  | .ldVxDt x => wordXNN 0xF#4 x 0x07#8
  | .ldVxK x => wordXNN 0xF#4 x 0x0A#8
  | .ldDtVx x => wordXNN 0xF#4 x 0x15#8
  | .ldStVx x => wordXNN 0xF#4 x 0x18#8
  | .addI x => wordXNN 0xF#4 x 0x1E#8
  | .ldF x => wordXNN 0xF#4 x 0x29#8
  | .ldB x => wordXNN 0xF#4 x 0x33#8
  | .stRegs x => wordXNN 0xF#4 x 0x55#8
  | .ldRegs x => wordXNN 0xF#4 x 0x65#8

/-! ### The match and mask columns of R46 -/

/-- The `match` and `mask` of a row: a word `w` is this row's instruction iff `(w & mask) = match` (R46). -/
structure OpcodeRow where
  pattern : Word
  mask : Word
  deriving DecidableEq, Repr

/-- The word matches the row (R46). -/
def OpcodeRow.matchesWord (r : OpcodeRow) (w : Word) : Bool := (w &&& r.mask) == r.pattern

/-- The row of R46 that an instruction belongs to. -/
def Instr.row : Instr → OpcodeRow
  | .cls => ⟨0x00E0#16, 0xFFFF#16⟩
  | .ret => ⟨0x00EE#16, 0xFFFF#16⟩
  | .jp _ => ⟨0x1000#16, 0xF000#16⟩
  | .call _ => ⟨0x2000#16, 0xF000#16⟩
  | .seImm _ _ => ⟨0x3000#16, 0xF000#16⟩
  | .sneImm _ _ => ⟨0x4000#16, 0xF000#16⟩
  | .seReg _ _ => ⟨0x5000#16, 0xF00F#16⟩
  | .ldImm _ _ => ⟨0x6000#16, 0xF000#16⟩
  | .addImm _ _ => ⟨0x7000#16, 0xF000#16⟩
  | .ldReg _ _ => ⟨0x8000#16, 0xF00F#16⟩
  | .orReg _ _ => ⟨0x8001#16, 0xF00F#16⟩
  | .andReg _ _ => ⟨0x8002#16, 0xF00F#16⟩
  | .xorReg _ _ => ⟨0x8003#16, 0xF00F#16⟩
  | .addReg _ _ => ⟨0x8004#16, 0xF00F#16⟩
  | .subReg _ _ => ⟨0x8005#16, 0xF00F#16⟩
  | .shrReg _ _ => ⟨0x8006#16, 0xF00F#16⟩
  | .subnReg _ _ => ⟨0x8007#16, 0xF00F#16⟩
  | .shlReg _ _ => ⟨0x800E#16, 0xF00F#16⟩
  | .sneReg _ _ => ⟨0x9000#16, 0xF00F#16⟩
  | .ldI _ => ⟨0xA000#16, 0xF000#16⟩
  | .jpV0 _ => ⟨0xB000#16, 0xF000#16⟩
  | .rnd _ _ => ⟨0xC000#16, 0xF000#16⟩
  | .drw _ _ _ => ⟨0xD000#16, 0xF000#16⟩
  | .skp _ => ⟨0xE09E#16, 0xF0FF#16⟩
  | .sknp _ => ⟨0xE0A1#16, 0xF0FF#16⟩
  | .ldVxDt _ => ⟨0xF007#16, 0xF0FF#16⟩
  | .ldVxK _ => ⟨0xF00A#16, 0xF0FF#16⟩
  | .ldDtVx _ => ⟨0xF015#16, 0xF0FF#16⟩
  | .ldStVx _ => ⟨0xF018#16, 0xF0FF#16⟩
  | .addI _ => ⟨0xF01E#16, 0xF0FF#16⟩
  | .ldF _ => ⟨0xF029#16, 0xF0FF#16⟩
  | .ldB _ => ⟨0xF033#16, 0xF0FF#16⟩
  | .stRegs _ => ⟨0xF055#16, 0xF0FF#16⟩
  | .ldRegs _ => ⟨0xF065#16, 0xF0FF#16⟩

/-- One instruction of each row, in the table's order. -/
def rowSamples : List Instr :=
  [.cls, .ret, .jp 0, .call 0, .seImm 0 0, .sneImm 0 0, .seReg 0 0, .ldImm 0 0, .addImm 0 0, .ldReg 0 0, .orReg 0 0,
   .andReg 0 0, .xorReg 0 0, .addReg 0 0, .subReg 0 0, .shrReg 0 0, .subnReg 0 0, .shlReg 0 0, .sneReg 0 0, .ldI 0,
   .jpV0 0, .rnd 0 0, .drw 0 0 0, .skp 0, .sknp 0, .ldVxDt 0, .ldVxK 0, .ldDtVx 0, .ldStVx 0, .addI 0, .ldF 0, .ldB 0,
   .stRegs 0, .ldRegs 0]

/-- The opcode map of R46: its 34 rows. -/
def opcodeMap : List OpcodeRow := rowSamples.map Instr.row

/-! ### Bytes -/

/-- The word of two consecutive bytes, the byte at the lower address the high one (R33; decision D1, log 1). -/
def wordOfBytes (hi lo : Byte) : Word := (hi ++ lo : BitVec 16)

/-- The byte of a word that stands at the lower address (R33). -/
def hiByte (w : Word) : Byte := w.extractLsb' 8 8

/-- The byte of a word that stands at the higher address (R33). -/
def loByte (w : Word) : Byte := w.extractLsb' 0 8

/-- Why bytes hold no instruction: fewer than two of them, or an unmapped word. -/
inductive DecodeError where
  | tooShort
  | unmapped (space : Unmapped)
  deriving DecidableEq, Repr

/-- Decodes the first two bytes and gives the rest back; the decoder always takes exactly two bytes (R50). -/
def decodeBytes : List Byte → Except DecodeError (Instr × List Byte)
  | hi :: lo :: rest =>
    match decode (wordOfBytes hi lo) with
    | .ok i => .ok (i, rest)
    | .error u => .error (.unmapped u)
  | _ => .error .tooShort

/-- The word whose bits are `w`, of which the table gives the low `nbits`; a bit above them is 0. -/
def tableWord (nbits w : Nat) : Word := BitVec.ofNat 16 (w % 2 ^ nbits)

/-- The instruction the decoder reads from the bytes of the word `w`, laid out as memory holds them. -/
def decodeTableWord (nbits w : Nat) : Option Instr :=
  match decodeBytes [hiByte (tableWord nbits w), loByte (tableWord nbits w)] with
  | .ok (i, _) => some i
  | .error _ => none

end Sys2Proof
end

