-- ==== Sys2Proof/Machine/Memory.lean ====
section
/-! DEFINITION. The 4096-byte memory (spec/20_memory.md R30 to R38): its reset contents with the font of
spec/10_state.md R21, the read and the write of one location in canonical form, and the bound-checked accesses and
ascending byte sequences of the instructions. -/

namespace Sys2Proof.Machine

/-! ### Reset contents -/

/-- What an unlisted address reads as in a machine with this font: its reset contents, `FONT` at 0x000 to 0x04F and 0
above (R28, R36). -/
def Memory.unlisted (font : Font) (a : Nat) : Byte := if h : a < 80 then font[a] else 0

/-! ### Cells -/

/-- The listed byte at an address, if there is one. -/
def Cells.lookup (a : Nat) : Cells → Option Byte
  | [] => none
  | (k, b) :: rest => if a = k then some b else Cells.lookup a rest

/-- The cell of a byte at an address: none where the byte is what the address reads as unlisted. -/
def Cells.cell (font : Font) (a : Nat) (b : Byte) : Cells := if b = Memory.unlisted font a then [] else [(a, b)]

/-- The cells after a byte is written at an address. -/
def Cells.write (font : Font) (a : Nat) (b : Byte) : Cells → Cells
  | [] => Cells.cell font a b
  | (k, c) :: rest =>
    if a < k then Cells.cell font a b ++ (k, c) :: rest
    else if a = k then Cells.cell font a b ++ rest
    else (k, c) :: Cells.write font a b rest

/-- The canonical form from an address on: addresses strictly rising from `lo`, inside the address space, and no entry
equal to what its address reads as unlisted. -/
def Cells.wfFrom (font : Font) (lo : Nat) : Cells → Bool
  | [] => true
  | (k, b) :: rest =>
    decide (lo ≤ k) && decide (k < Config.memSize) && decide (b ≠ Memory.unlisted font k) &&
      Cells.wfFrom font (k + 1) rest

/-! ### One location -/

/-- `MEM[a]` (R20). -/
def Memory.read (m : Memory) (a : Nat) : Byte := (m.cells.lookup a).getD (Memory.unlisted m.font a)

/-- `MEM[a] <- b`, keeping the canonical form (R35). -/
def Memory.write (m : Memory) (a : Nat) (b : Byte) : Memory := ⟨m.font, m.cells.write m.font a b⟩

/-- Writes bytes at ascending addresses from `a`. -/
def Memory.writeAll (m : Memory) (a : Nat) : List Byte → Memory
  | [] => m
  | b :: bs => Memory.writeAll (m.write a b) (a + 1) bs

/-- The memory is in canonical form. -/
def Memory.wf (m : Memory) : Bool := m.cells.wfFrom m.font 0

/-! ### Bound-checked accesses (R31) -/

/-- `raise Fault(OutOfBoundsAccess, a)`. -/
def outOfBounds (a : Nat) : Trap := ⟨.outOfBoundsAccess, some a⟩

/-- `MemRead(a, 1)` (R31). -/
def memRead (m : Memory) (a : Nat) : Except Trap Byte :=
  if a < Config.memSize then .ok (m.read a) else .error (outOfBounds a)

/-- `MemWrite(a, 1, b)` (R31). -/
def memWrite (m : Memory) (a : Nat) (b : Byte) : Except Trap Memory :=
  if a < Config.memSize then .ok (m.write a b) else .error (outOfBounds a)

/-- Reads `k` bytes at ascending addresses from `a`, stopping at the first that is out of bounds (R32, R38). -/
def readBytes (m : Memory) (a : Nat) : Nat → Except Trap (List Byte)
  | 0 => .ok []
  | k + 1 =>
    match memRead m a with
    | .error e => .error e
    | .ok b =>
      match readBytes m (a + 1) k with
      | .error e => .error e
      | .ok bs => .ok (b :: bs)

/-- Writes bytes at ascending addresses from `a`, stopping at the first that is out of bounds (R32, R38). -/
def writeBytes (m : Memory) (a : Nat) : List Byte → Except Trap Memory
  | [] => .ok m
  | b :: bs =>
    match memWrite m a b with
    | .error e => .error e
    | .ok m' => writeBytes m' (a + 1) bs

/-- `MemRead(a, 2)`: the instruction word at `a`, each byte bound-checked, the byte at `a` the high one (R33, R54). -/
def memReadWord (m : Memory) (a : Nat) : Except Trap Word :=
  match memRead m a with
  | .error e => .error e
  | .ok hi =>
    match memRead m (a + 1) with
    | .error e => .error e
    | .ok lo => .ok (wordOfBytes hi lo)

end Sys2Proof.Machine
end

