-- ==== Sys2Proof/Machine/Ops.lean ====
section
/-! DEFINITION. The named operations of every step: register and latch writes, the program counter, the call stack
(spec/10_state.md R19), the run state (R25), fetch (spec/40_cycle.md R54) and fault entry (R58; spec/60_exceptions.md
R107, R108). There is no return from a fault (R109): only reset and load clear the record. -/

namespace Sys2Proof.Machine

/-! ### Named writes, one field each -/

/-- Writes all of `V`. -/
def State.setV (s : State) (v : Vector Byte 16) : State := { s with v := v }

/-- `I <- w`. -/
def State.setI (s : State) (w : Word) : State := { s with i := w }

/-- `PC <- w`. -/
def State.setPc (s : State) (w : Word) : State := { s with pc := w }

/-- `STACK <- l`. -/
def State.setStack (s : State) (l : List Word) : State := { s with stack := l }

/-- Writes all of `MEM`. -/
def State.setMem (s : State) (m : Memory) : State := { s with mem := m }

/-- Writes all of `FB`. -/
def State.setFb (s : State) (f : Framebuffer) : State := { s with fb := f }

/-- Writes all of `KEY`. -/
def State.setKeys (s : State) (k : Vector Bool 16) : State := { s with keys := k }

/-- `WAIT <- w`. -/
def State.setWait (s : State) (w : Option RegIdx) : State := { s with wait := w }

/-- `DT <- b`. -/
def State.setDt (s : State) (b : Byte) : State := { s with dt := b }

/-- `ST <- b`. -/
def State.setSt (s : State) (b : Byte) : State := { s with st := b }

/-- `PAUSED <- b`. -/
def State.setPaused (s : State) (b : Bool) : State := { s with paused := b }

/-- `FAULT <- r`. -/
def State.setFault (s : State) (r : Option FaultRecord) : State := { s with fault := r }

/-- `DIRTY <- b`. -/
def State.setDirty (s : State) (b : Bool) : State := { s with dirty := b }

/-- Writes the model's own draw counter (log 6). -/
def State.setDraws (s : State) (k : Nat) : State := { s with draws := k }

/-! ### General registers (R15, R16) -/

/-- `V[k]`. -/
def State.reg (s : State) (k : RegIdx) : Byte := s.v[k.val]

/-- `V[k] <- b`. -/
def State.setReg (s : State) (k : RegIdx) (b : Byte) : State := s.setV (s.v.set k.val b)

/-- `VF` is `V[0xF]` (R16). -/
abbrev vf : RegIdx := 15

/-- A flag as the register value 0 or 1 (R16). -/
def flagByte (b : Bool) : Byte := if b then 1 else 0

/-- `VF <- flag` (R16). -/
def State.setFlag (s : State) (b : Bool) : State := s.setReg vf (flagByte b)

/-! ### Program counter -/

/-- `PC <- PC + 2`: the advance before dispatch (R55), the skip (R73) and the unmapped no-op (R57) all add one
instruction length. -/
def State.advance (s : State) : State := s.setPc (s.pc + 2)

/-- `if c then Skip()` (R73). -/
def State.skipIf (s : State) (c : Bool) : State := if c then s.advance else s

/-! ### Call stack (R19) -/

/-- `Push(w)`. The test is "at capacity", 16 or more: no more than 16 is ever held (log 25). -/
def push (s : State) (w : Word) : Except Trap State :=
  if Config.stackCap ≤ s.stack.length then .error ⟨.stackOverflow, none⟩ else .ok (s.setStack (s.stack ++ [w]))

/-- `Pop()`: the popped value and the state without it. -/
def pop (s : State) : Except Trap (Word × State) :=
  match s.stack.getLast? with
  | none => .error ⟨.stackUnderflow, none⟩
  | some w => .ok (w, s.setStack s.stack.dropLast)

/-! ### Run state -/

/-- The named state, derived from the three latches (R25). -/
def State.runState (s : State) : RunState :=
  if s.paused || s.fault.isSome then .halted
  else if s.wait.isSome then .waitingForKey
  else .running

/-- The gate of a step (R53): neither Halted nor WaitingForKey. -/
def State.isRunning (s : State) : Bool := s.runState == .running

/-! ### Fault codes (R106) -/

/-- The code of a fault kind; codes are labels only (R106; decision D4). -/
def FaultKind.code : FaultKind → Nat
  | .outOfBoundsAccess => 0
  | .stackOverflow => 1
  | .stackUnderflow => 2
  | .programTooLarge => 3

/-! ### Fault entry (R58, R107, R108) -/

/-- Takes a fault in the state the step began with: every write of the step is discarded, the record is latched with
`pc` the address of the faulting instruction, and the machine is thereby Halted. -/
def takeFault (s : State) (word : Option Word) (t : Trap) : State :=
  s.setFault (some ⟨t.kind, s.pc, word, t.addr⟩)

/-- Ends a step: its new state, or fault entry in the state `s` it began with (R58). -/
def endStep (s : State) (word : Option Word) : Except Trap State → State
  | .ok t => t
  | .error e => takeFault s word e

/-- Ends the step of an instruction that began in `s`; the fetched word is the instruction's encoding (log 16). -/
def complete (i : Instr) (s : State) (r : Except Trap State) : Host.Outcome State Fault Refusal :=
  .next (endStep s (some (encode i)) r)

/-! ### Fetch (R54) and the unmapped no-op (R57) -/

/-- The word at `PC`, or the fetch fault. -/
def State.fetch (s : State) : Except Trap Word := memReadWord s.mem s.pc.toNat

/-- The step of a word that matches no row: the advance and nothing else (R57). -/
def execUnmapped (s : State) : Host.Outcome State Fault Refusal := .next s.advance

/-- The step whose fetch faults: fault entry with no word (R54, R107). -/
def execFetchFault (e : Trap) (s : State) : Host.Outcome State Fault Refusal := .next (takeFault s none e)

/-- The step of a machine that is not Running: nothing changes (R53). -/
def execIdle (s : State) : Host.Outcome State Fault Refusal := .next s

/-- The state prepared so that the next step fetches the word: the machine made Running, the PC put back at the load
address if no word fits at it, and the two bytes stored there (log 18). -/
def State.placeWord (s : State) (w : Word) : State :=
  let pc := if s.pc.toNat + 1 < Config.memSize then s.pc else BitVec.ofNat 16 Config.progBase
  ((((s.setPaused false).setFault none).setWait none).setPc pc).setMem
    (s.mem.writeAll pc.toNat [hiByte w, loByte w])

end Sys2Proof.Machine
end

