-- ==== Sys2Proof/Machine/Flags.lean ====
section
/-! DEFINITION. The results and flags of the flag-writing group `8xy4` to `8xyE` (spec/44_register_alu.md R87 to R92) and
the two write orders of R87. Results are 8-bit and wrap (R94); flags are taken from the unbounded values (R9). -/

namespace Sys2Proof.Machine

/-- `8xy4`: 1 iff the unmodded sum exceeds 255 (R88). -/
def carryOut (vx vy : Byte) : Bool := decide (255 < vx.toNat + vy.toNat)

/-- `8xy5` and `8xy7`: 1 iff the minuend is strictly greater than the subtrahend (R89, R91). -/
def noBorrow (minuend subtrahend : Byte) : Bool := decide (subtrahend.toNat < minuend.toNat)

/-- `8xy6`: the bit shifted out, bit 0 (R90). -/
def shrOut (vx : Byte) : Bool := vx.getLsbD 0

/-- `8xyE`: the bit shifted out, bit 7 (R92). -/
def shlOut (vx : Byte) : Bool := vx.getLsbD 7

/-- `8xy4`: the sum modulo 256 (R88). -/
def sumByte (vx vy : Byte) : Byte := vx + vy

/-- `8xy5` and `8xy7`: the difference modulo 256 (R89, R91). -/
def diffByte (minuend subtrahend : Byte) : Byte := minuend - subtrahend

/-- `8xy6`: `vx div 2` (R90). -/
def shrByte (vx : Byte) : Byte := vx >>> 1

/-- `8xyE`: `(vx * 2) mod 256` (R92). -/
def shlByte (vx : Byte) : Byte := vx <<< 1

/-- The write order of `8xy4`: the result, then the flag (R87; decision D7, log 8). -/
def State.resultThenFlag (s : State) (x : RegIdx) (result : Byte) (flag : Bool) : State :=
  (s.setReg x result).setFlag flag

/-- The write order of `8xy5`, `8xy6`, `8xy7` and `8xyE`: the flag, then the result (R87; decision D7, log 8). -/
def State.flagThenResult (s : State) (x : RegIdx) (result : Byte) (flag : Bool) : State :=
  (s.setFlag flag).setReg x result

end Sys2Proof.Machine
end

