-- ==== Sys2Proof/Machine/Alu.lean ====
section
/-! DEFINITION. The register and arithmetic instructions (spec/44_register_alu.md). Each leaves `PC` at the advanced
value; none can fault. -/

namespace Sys2Proof.Machine

/-- `6xnn` LD Vx, nn (R81). -/
def execLdImm (x : RegIdx) (nn : Byte) (s : State) : Host.Outcome State Fault Refusal :=
  .next (s.advance.setReg x nn)

/-- `7xnn` ADD Vx, nn: modulo 256, no carry reported (R82). -/
def execAddImm (x : RegIdx) (nn : Byte) (s : State) : Host.Outcome State Fault Refusal :=
  .next (s.advance.setReg x (sumByte (s.reg x) nn))

/-- `8xy0` LD Vx, Vy (R83). -/
def execLdReg (x y : RegIdx) (s : State) : Host.Outcome State Fault Refusal :=
  .next (s.advance.setReg x (s.reg y))

/-- `8xy1` OR Vx, Vy (R84). -/
def execOrReg (x y : RegIdx) (s : State) : Host.Outcome State Fault Refusal :=
  .next (s.advance.setReg x (s.reg x ||| s.reg y))

/-- `8xy2` AND Vx, Vy (R85). -/
def execAndReg (x y : RegIdx) (s : State) : Host.Outcome State Fault Refusal :=
  .next (s.advance.setReg x (s.reg x &&& s.reg y))

/-- `8xy3` XOR Vx, Vy (R86). -/
def execXorReg (x y : RegIdx) (s : State) : Host.Outcome State Fault Refusal :=
  .next (s.advance.setReg x (s.reg x ^^^ s.reg y))

/-- `8xy4` ADD Vx, Vy (R88): sum, then carry. -/
def execAddReg (x y : RegIdx) (s : State) : Host.Outcome State Fault Refusal :=
  .next (s.advance.resultThenFlag x (sumByte (s.reg x) (s.reg y)) (carryOut (s.reg x) (s.reg y)))

/-- `8xy5` SUB Vx, Vy (R89): no-borrow, then `vx - vy`. -/
def execSubReg (x y : RegIdx) (s : State) : Host.Outcome State Fault Refusal :=
  .next (s.advance.flagThenResult x (diffByte (s.reg x) (s.reg y)) (noBorrow (s.reg x) (s.reg y)))

/-- `8xy6` SHR Vx, Vy (R90): bit 0, then the shift of `V[x]`; `V[y]` is not read. -/
def execShrReg (x _y : RegIdx) (s : State) : Host.Outcome State Fault Refusal :=
  .next (s.advance.flagThenResult x (shrByte (s.reg x)) (shrOut (s.reg x)))

/-- `8xy7` SUBN Vx, Vy (R91): no-borrow, then `vy - vx`. -/
def execSubnReg (x y : RegIdx) (s : State) : Host.Outcome State Fault Refusal :=
  .next (s.advance.flagThenResult x (diffByte (s.reg y) (s.reg x)) (noBorrow (s.reg y) (s.reg x)))

/-- `8xyE` SHL Vx, Vy (R92): bit 7, then the shift of `V[x]`; `V[y]` is not read. -/
def execShlReg (x _y : RegIdx) (s : State) : Host.Outcome State Fault Refusal :=
  .next (s.advance.flagThenResult x (shlByte (s.reg x)) (shlOut (s.reg x)))

/-- `Cxnn` RND Vx, nn: a fresh draw under the mask (R93); the draw is the free value `Config.rand` (log 6). -/
def execRnd (x : RegIdx) (nn : Byte) (s : State) : Host.Outcome State Fault Refusal :=
  .next ((s.advance.setReg x (Config.rand s.draws &&& nn)).setDraws (s.draws + 1))

end Sys2Proof.Machine
end

