-- ==== Sys2Proof/Machine/Operands.lean ====
section
/-! DEFINITION. The operand forms: immediates widened with zeros, key lookup, glyph addresses, decimal digits, and the
register range `V[0..x]` (spec/30_encoding.md R45; spec/43_skips.md R80; spec/45_index_memory.md R97 to R101). -/

namespace Sys2Proof.Machine

/-- `zext_16(nnn)` (R9, R45). -/
def zext (nnn : Addr12) : Word := nnn.setWidth 16

/-- A byte widened to 16 bits (R9). -/
def byteWord (b : Byte) : Word := b.setWidth 16

/-- `Pressed(k)`: key `k` is pressed; a number above 15 names no key and reads as not pressed (R80; decision D8). -/
def State.pressed (s : State) (k : Byte) : Bool :=
  if h : k.toNat < 16 then s.keys[k.toNat] else false

/-- The glyph address `V[x] * 5`, with no mask (R97; decision D9). -/
def glyphAddr (b : Byte) : Word := BitVec.ofNat 16 (b.toNat * 5)

/-- Hundreds, tens and units of a byte (R98). -/
def decimalDigits (b : Byte) : List Byte :=
  [BitVec.ofNat 8 (b.toNat / 100), BitVec.ofNat 8 (b.toNat / 10 % 10), BitVec.ofNat 8 (b.toNat % 10)]

/-- The base address of the `I`-based accesses, an unbounded number (R101 (a)). -/
def State.base (s : State) : Nat := s.i.toNat

/-- The values of `V[0..x]` in ascending order (R99). -/
def State.regsUpTo (s : State) (x : RegIdx) : List Byte := s.v.toList.take (x.val + 1)

/-- Writes bytes to the registers from `V[k]` up (R100). -/
def loadRegs (v : Vector Byte 16) (k : Nat) : List Byte → Vector Byte 16
  | [] => v
  | b :: bs => loadRegs (if h : k < 16 then v.set k b else v) (k + 1) bs

end Sys2Proof.Machine
end

