-- ==== Sys2Proof/Machine/Control.lean ====
section
/-! DEFINITION. Control transfer: `00EE`, `1nnn`, `2nnn`, `Bnnn` (spec/42_control_flow.md). No target is checked when
written (R71). -/

namespace Sys2Proof.Machine

/-- `00EE` RET: `PC <- Pop()` (R67). -/
def execRet (s : State) : Host.Outcome State Fault Refusal :=
  complete .ret s <|
    match pop s.advance with
    | .error e => .error e
    | .ok (w, t) => .ok (t.setPc w)

/-- `1nnn` JP: `PC <- nnn` (R68). -/
def execJp (nnn : Addr12) (s : State) : Host.Outcome State Fault Refusal :=
  .next (s.advance.setPc (zext nnn))

/-- `2nnn` CALL: `Push(PC)` with the advanced `PC`, then `PC <- nnn` (R69). -/
def execCall (nnn : Addr12) (s : State) : Host.Outcome State Fault Refusal :=
  complete (.call nnn) s <|
    match push s.advance s.advance.pc with
    | .error e => .error e
    | .ok t => .ok (t.setPc (zext nnn))

/-- `Bnnn` JP V0: `PC <- nnn + V[0]`, not reduced modulo 4096 (R70; decision D12). -/
def execJpV0 (nnn : Addr12) (s : State) : Host.Outcome State Fault Refusal :=
  .next (s.advance.setPc (zext nnn + byteWord (s.reg 0)))

end Sys2Proof.Machine
end

