-- ==== Sys2Proof/Machine/Display.lean ====
section
/-! DEFINITION. The display instructions `00E0` and `Dxyn` (spec/41_display.md). -/

namespace Sys2Proof.Machine

/-- `00E0` CLS: every cell unlit, `DIRTY` set even on a clear screen (R62; decision D15). -/
def execCls (s : State) : Host.Outcome State Fault Refusal :=
  .next ((s.advance.setFb Framebuffer.blank).setDirty true)

/-- What `Dxyn` does once its sprite bytes are read: the origin is `V[x]`, `V[y]` before `VF` is written (R64). -/
def drawRows (s : State) (x y : RegIdx) (rows : List Byte) : State :=
  let d := drawSprite s.fb (s.reg x).toNat (s.reg y).toNat rows
  ((s.advance.setFb d.fb).setDirty true).setFlag d.collision

/-- `Dxyn` DRW: every sprite byte is read before any cell changes (R64, R101). -/
def execDrw (x y : RegIdx) (n : Nibble) (s : State) : Host.Outcome State Fault Refusal :=
  complete (.drw x y n) s <|
    match readBytes s.mem s.base n.toNat with
    | .error e => .error e
    | .ok rows => .ok (drawRows s x y rows)

end Sys2Proof.Machine
end

