-- ==== Sys2Proof/Machine/IndexMemory.lean ====
section
/-! DEFINITION. The index register and memory instructions (spec/45_index_memory.md). None of the memory instructions
writes `I` (R101 (d); decision D10). -/

namespace Sys2Proof.Machine

/-- `Annn` LD I, nnn (R95). -/
def execLdI (nnn : Addr12) (s : State) : Host.Outcome State Fault Refusal :=
  .next (s.advance.setI (zext nnn))

/-- `Fx1E` ADD I, Vx: modulo 65536, no flag (R96). -/
def execAddI (x : RegIdx) (s : State) : Host.Outcome State Fault Refusal :=
  .next (s.advance.setI (s.i + byteWord (s.reg x)))

/-- `Fx29` LD F, Vx (R97). -/
def execLdF (x : RegIdx) (s : State) : Host.Outcome State Fault Refusal :=
  .next (s.advance.setI (glyphAddr (s.reg x)))

/-- The step of an instruction that stores bytes at `I`, `I + 1`, ...: all of them or the fault (R101). -/
def storeAtI (i : Instr) (bytes : List Byte) (s : State) : Host.Outcome State Fault Refusal :=
  complete i s <|
    match writeBytes s.mem s.base bytes with
    | .error e => .error e
    | .ok m => .ok (s.advance.setMem m)

/-- `Fx33` LD B, Vx: hundreds, tens, units (R98). -/
def execLdB (x : RegIdx) (s : State) : Host.Outcome State Fault Refusal :=
  storeAtI (.ldB x) (decimalDigits (s.reg x)) s

/-- `Fx55` LD [I], Vx: `V[0..x]` (R99). -/
def execStRegs (x : RegIdx) (s : State) : Host.Outcome State Fault Refusal :=
  storeAtI (.stRegs x) (s.regsUpTo x) s

/-- `Fx65` LD Vx, [I]: `V[0..x]`, all of them or the fault (R100, R101). -/
def execLdRegs (x : RegIdx) (s : State) : Host.Outcome State Fault Refusal :=
  complete (.ldRegs x) s <|
    match readBytes s.mem s.base (x.val + 1) with
    | .error e => .error e
    | .ok bs => .ok (s.advance.setV (loadRegs s.v 0 bs))

end Sys2Proof.Machine
end

