-- ==== Sys2Proof/Machine/Skips.lean ====
section
/-! DEFINITION. The conditional skips (spec/43_skips.md). Each adds 2 more to the advanced `PC` when its condition
holds (R73) and writes nothing else. -/

namespace Sys2Proof.Machine

/-- `3xnn` SE Vx, nn (R74). -/
def execSeImm (x : RegIdx) (nn : Byte) (s : State) : Host.Outcome State Fault Refusal :=
  .next (s.advance.skipIf (s.reg x == nn))

/-- `4xnn` SNE Vx, nn (R75). -/
def execSneImm (x : RegIdx) (nn : Byte) (s : State) : Host.Outcome State Fault Refusal :=
  .next (s.advance.skipIf (s.reg x != nn))

/-- `5xy0` SE Vx, Vy (R76). -/
def execSeReg (x y : RegIdx) (s : State) : Host.Outcome State Fault Refusal :=
  .next (s.advance.skipIf (s.reg x == s.reg y))

/-- `9xy0` SNE Vx, Vy (R77). -/
def execSneReg (x y : RegIdx) (s : State) : Host.Outcome State Fault Refusal :=
  .next (s.advance.skipIf (s.reg x != s.reg y))

/-- `Ex9E` SKP Vx (R78). -/
def execSkp (x : RegIdx) (s : State) : Host.Outcome State Fault Refusal :=
  .next (s.advance.skipIf (s.pressed (s.reg x)))

/-- `ExA1` SKNP Vx (R79). -/
def execSknp (x : RegIdx) (s : State) : Host.Outcome State Fault Refusal :=
  .next (s.advance.skipIf (!s.pressed (s.reg x)))

end Sys2Proof.Machine
end

