-- ==== Sys2Proof/Machine/TimersInput.lean ====
section
/-! DEFINITION. The timer and key-wait instructions (spec/46_timers_input.md). -/

namespace Sys2Proof.Machine

/-- `Fx07` LD Vx, DT (R102). -/
def execLdVxDt (x : RegIdx) (s : State) : Host.Outcome State Fault Refusal :=
  .next (s.advance.setReg x s.dt)

/-- `Fx0A` LD Vx, K: arms the wait; `V[x]` is written by the key press that resolves it (R103). -/
def execLdVxK (x : RegIdx) (s : State) : Host.Outcome State Fault Refusal :=
  .next (s.advance.setWait (some x))

/-- `Fx15` LD DT, Vx (R104). -/
def execLdDtVx (x : RegIdx) (s : State) : Host.Outcome State Fault Refusal :=
  .next (s.advance.setDt (s.reg x))

/-- `Fx18` LD ST, Vx (R105). -/
def execLdStVx (x : RegIdx) (s : State) : Host.Outcome State Fault Refusal :=
  .next (s.advance.setSt (s.reg x))

end Sys2Proof.Machine
end

