-- ==== Sys2Proof/Machine/Step.lean ====
section
/-! DEFINITION. `step()` (spec/40_cycle.md R53 to R61): the gate, fetch, decode and dispatch; and the placing of a word
where the next step fetches it. -/

namespace Sys2Proof.Machine

/-- One call of `step()`. It always answers a next state: a fault is the state with `FAULT` latched (log 4). -/
def step (s : State) : Host.Outcome State Fault Refusal :=
  if s.isRunning then
    match s.fetch with
    | .error e => execFetchFault e s
    | .ok w =>
      match decode w with
      | .ok i => exec i s
      | .error _ => execUnmapped s
  else execIdle s

/-- The state in which the very next step fetches and runs the instruction whose bits are `w` (log 18). -/
def State.withFetchWord (s : State) (nbits w : Nat) : State := s.placeWord (tableWord nbits w)

end Sys2Proof.Machine
end

