-- ==== Sys2Proof/Machine/HostOps.lean ====
section
/-! DEFINITION. The host transactions other than `step()`, each applied atomically between steps (spec/60_exceptions.md
R113 to R124; spec/70_reset_and_hazards.md R130 to R133). -/

namespace Sys2Proof.Machine

/-- One countdown tick: toward zero, floor at zero (R24, R113). -/
def countDown (b : Byte) : Byte := if b = 0 then 0 else b - 1

/-- `tickTimer()`: the tone boolean and the new state, in every run state (R113 to R115). -/
def tickTimer (s : State) : Bool × State :=
  let t := (s.setDt (countDown s.dt)).setSt (countDown s.st)
  (t.st != 0, t)

/-- A press event resolves a pending wait: the key index goes to the waiting register (R116, R118). -/
def resolveWait (s : State) (k : RegIdx) : State :=
  match s.wait with
  | none => s
  | some x => (s.setReg x (BitVec.ofNat 8 k.val)).setWait none

/-- `setKey(k, p)` in every run state (R116, R118). An index above 15 has no effect (R117; decision D26). -/
def setKey (k : Nat) (p : Bool) (s : State) : State :=
  if h : k < 16 then
    let t := s.setKeys (s.keys.set k p)
    if p then resolveWait t ⟨k, h⟩ else t
  else s

/-- `reset()`: every element as at construction, the font restored from the machine's `FONT` (R21, R130). The draws
already made are not given back: a draw after a reset is a fresh one (R93; log 6). -/
def resetMachine (s : State) : State := (State.construct s.mem.font).setDraws s.draws

/-- The longest image that fits, 0xE00 bytes (R133). -/
def maxImage : Nat := Config.memSize - Config.progBase

/-- `load(image)`: reset, then the length check, then the copy to 0x200. Answers whether it succeeded; a too large
image latches `ProgramTooLarge` in the reset state and copies nothing (R132, R133). -/
def load (image : List Byte) (s : State) : Bool × State :=
  let r := resetMachine s
  if maxImage < image.length then
    (false, takeFault r none ⟨.programTooLarge, some image.length⟩)
  else
    (true, r.setMem (r.mem.writeAll Config.progBase image))

/-- `pause()` in any run state; a pending wait and a recorded fault are kept (R123). -/
def pause (s : State) : State := s.setPaused true

/-- `resume()`: clears the pause only (R124). -/
def resume (s : State) : State := s.setPaused false

/-- `snapshot()`: the grid; nothing changes (R119). -/
def snapshot (s : State) : Framebuffer := s.fb

/-- `frameReport()`: the old `DIRTY`, then cleared (R120). -/
def frameReport (s : State) : Bool × State := (s.dirty, s.setDirty false)

end Sys2Proof.Machine
end

