-- ==== Sys2Proof/Machine/Transactions.lean ====
section
/-! DEFINITION. Every way the host can act on the block, in one type, with what each returns (spec/60_exceptions.md R121,
R122), and the Scheduler as a host program over them (R125). The order of transactions is the host's: a run is any
list of them (log 15). -/

namespace Sys2Proof.Machine

/-- What a call of `step()` returns (R60). -/
inductive StepResult where
  | idle
  | ok
  | faulted (kind : FaultKind)
  deriving DecidableEq, Repr

/-- The state after a call of `step()`. -/
def stepState (s : State) : State :=
  match step s with
  | .next t => t
  | .fault _ => s
  | .refused _ => s

/-- What a call of `step()` returns: `Idle` when not Running, else `Faulted(kind)` or `Ok` (R60). -/
def stepResult (s : State) : StepResult :=
  if s.isRunning then
    match (stepState s).fault with
    | some r => .faulted r.kind
    | none => .ok
  else .idle

/-- A host transaction (R122). -/
inductive Transaction where
  | step
  | tickTimer
  | setKey (k : Nat) (pressed : Bool)
  | reset
  | load (image : List Byte)
  | pause
  | resume
  | snapshot
  | frameReport
  | setTurbo (enabled : Bool)
  | setTurboSpeed (k : Nat)
  deriving DecidableEq, Repr

/-- What a transaction returns (R122). -/
inductive Response where
  | nothing
  | stepped (r : StepResult)
  | tone (audible : Bool)
  | loaded (ok : Bool)
  | grid (fb : Framebuffer)
  | wasDirty (d : Bool)
  deriving DecidableEq, Repr

/-- The host's duty for a transaction: a key index 0 to 15 and a turbo speed of at least 1 (R117, R122). -/
def Transaction.wellFormed : Transaction → Bool
  | .setKey k _ => decide (k < 16)
  | .setTurboSpeed k => decide (1 ≤ k)
  | .step | .tickTimer | .reset | .load _ | .pause | .resume | .snapshot | .frameReport | .setTurbo _ => true

/-- One transaction, applied atomically (R121, R122). Turbo settings are the Scheduler's, no state of the block. -/
def Transaction.apply : Transaction → State → Response × State
  | .step, s => (.stepped (stepResult s), stepState s)
  | .tickTimer, s => (.tone (Machine.tickTimer s).1, (Machine.tickTimer s).2)
  | .setKey k p, s => (.nothing, Machine.setKey k p s)
  | .reset, s => (.nothing, resetMachine s)
  | .load image, s => (.loaded (Machine.load image s).1, (Machine.load image s).2)
  | .pause, s => (.nothing, Machine.pause s)
  | .resume, s => (.nothing, Machine.resume s)
  | .snapshot, s => (.grid (Machine.snapshot s), s)
  | .frameReport, s => (.wasDirty (Machine.frameReport s).1, (Machine.frameReport s).2)
  | .setTurbo _, s => (.nothing, s)
  | .setTurboSpeed _, s => (.nothing, s)

/-- A run: transactions in the order the host chose (R121). -/
def runTransactions : List Transaction → State → State
  | [], s => s
  | t :: ts, s => runTransactions ts (t.apply s).2

/-! ### The Scheduler, a host program (R125) -/

/-- The Scheduler's configuration (R125); `speed` is `TURBO_K` (R7). -/
structure Turbo where
  enabled : Bool
  speed : Nat
  deriving DecidableEq, Repr

/-- `setTurbo(e)` (R122). -/
def Turbo.setTurbo (c : Turbo) (e : Bool) : Turbo := { c with enabled := e }

/-- `setTurboSpeed(k)`, accepted for k at least 1 (R125); a smaller k, outside the host's duty, changes nothing. -/
def Turbo.setTurboSpeed (c : Turbo) (k : Nat) : Turbo := if 1 ≤ k then { c with speed := k } else c

/-- Steps per frame signal: 1, or k in turbo mode (R125). -/
def Turbo.stepsPerFrame (c : Turbo) : Nat := if c.enabled then c.speed else 1

/-- Calls of `step()` in immediate succession. -/
def stepTimes : Nat → State → State
  | 0, s => s
  | k + 1, s => stepTimes k (stepState s)

/-- The frame signal: the steps, then the frame report (R125). -/
def frameSignal (c : Turbo) (s : State) : Bool × State := frameReport (stepTimes c.stepsPerFrame s)

/-- The timer signal: one tick (R125). -/
def timerSignal (s : State) : Bool × State := Machine.tickTimer s

end Sys2Proof.Machine
end

