-- ==== Sys2Proof/Safety.lean ====
section
/-! DEFINITION. What statements call a good state: the invariant of the machine (spec/10_state.md R18, R19, R25; the
canonical memory of log 17), a safe run, and the observation points that end a run (spec/70_reset_and_hazards.md R135). -/

namespace Sys2Proof.Machine

/-- "Invariant: depth never exceeds capacity" (R19). -/
abbrev State.stackBounded (s : State) : Prop := s.stack.length ≤ Config.stackCap

/-- Every stack entry is a pushed `a + 2`, at most 0x1000 (R55, R69). -/
abbrev State.returnsBounded (s : State) : Prop := ∀ w ∈ s.stack, w.toNat ≤ 0x1000

/-- The largest value any rule can give `PC` is 0x10FE (R18). -/
abbrev State.pcBounded (s : State) : Prop := s.pc.toNat ≤ 0x10FE

/-- `WAIT` and `FAULT` are never both set (R25). -/
abbrev State.latchesExclusive (s : State) : Prop := s.wait.isNone ∨ s.fault.isNone

/-- A recorded fault's address is where `PC` still points (R58, R107, R108). -/
abbrev State.faultAtPc (s : State) : Prop := ∀ r ∈ s.fault, r.pc = s.pc

/-- The machine's invariant: what every run keeps. -/
structure State.Inv (s : State) : Prop where
  stackBounded : s.stackBounded
  returnsBounded : s.returnsBounded
  pcBounded : s.pcBounded
  latchesExclusive : s.latchesExclusive
  faultAtPc : s.faultAtPc
  memWf : s.mem.wf = true

/-- A safe state: no fault is recorded (R135 (a)). -/
abbrev State.Safe (s : State) : Prop := s.fault = none

/-- Observation point (a): faulted (R135). -/
abbrev State.endFaulted (s : State) : Prop := s.fault.isSome = true

/-- Observation point (b): Running at a `1nnn` whose target is its own address (R68, R135; decision D23; log 23). -/
abbrev State.endSelfLoop (s : State) : Prop :=
  s.isRunning = true ∧ ∃ nnn : Addr12, zext nnn = s.pc ∧ s.fetch = .ok (encode (.jp nnn))

/-- Observation point (c): waiting for a key (R135). -/
abbrev State.endWaiting (s : State) : Prop := s.runState = .waitingForKey

/-! ### Frames (spec/00_scope.md R11) -/

/-- Which parts of the state an instruction may write: registers by number, memory by address, and each other element
of R14 that some instruction writes. `keys` and `paused` stand in no footprint: no instruction writes them (R14). -/
structure Footprint where
  regs : RegIdx → Bool := fun _ => false
  i : Bool := false
  pc : Bool := false
  stack : Bool := false
  mem : Nat → Bool := fun _ => false
  fb : Bool := false
  wait : Bool := false
  dt : Bool := false
  st : Bool := false
  fault : Bool := false
  dirty : Bool := false
  draws : Bool := false

/-- Everything outside the footprint is the same before and after: registers, memory byte by byte, every other
element of the state, and the parameter `FONT`. -/
structure Footprint.Unchanged (f : Footprint) (s t : State) : Prop where
  regs : ∀ j, f.regs j = false → t.reg j = s.reg j
  i : f.i = false → t.i = s.i
  pc : f.pc = false → t.pc = s.pc
  stack : f.stack = false → t.stack = s.stack
  mem : ∀ a, f.mem a = false → t.mem.read a = s.mem.read a
  font : t.mem.font = s.mem.font
  fb : f.fb = false → t.fb = s.fb
  keys : t.keys = s.keys
  wait : f.wait = false → t.wait = s.wait
  dt : f.dt = false → t.dt = s.dt
  st : f.st = false → t.st = s.st
  paused : t.paused = s.paused
  fault : f.fault = false → t.fault = s.fault
  dirty : f.dirty = false → t.dirty = s.dirty
  draws : f.draws = false → t.draws = s.draws

end Sys2Proof.Machine
end

