-- ==== Sys2Proof/Certificates/Slice0/Obligations.lean ====
section
/-! DEFINITION. The statements for the provers, each from a rule of spec/ named in its docstring. Where a docstring says
"decision Dn", the clause follows spec/92_eei_decisions.md, the spec's own choice where its source is silent. -/

open Sys2Proof Sys2Proof.Machine

/-! ### Encoding -/

/-- Words written out from the patterns of R46, one or more a family (examples of R51 and of the families' rules). -/
def Obligations.SampleWordsDecode : Prop :=
  decode 0x00E0 = .ok .cls ∧ decode 0xD125 = .ok (.drw 1 2 5) ∧ decode 0x00EE = .ok .ret ∧
  decode 0x1204 = .ok (.jp 0x204) ∧ decode 0x42FF = .ok (.sneImm 2 0xFF) ∧ decode 0x5340 = .ok (.seReg 3 4) ∧
  decode 0xE59E = .ok (.skp 5) ∧ decode 0x7003 = .ok (.addImm 0 3) ∧ decode 0x8F1E = .ok (.shlReg 0xF 1) ∧
  decode 0xA300 = .ok (.ldI 0x300) ∧ decode 0xF265 = .ok (.ldRegs 2) ∧ decode 0xF30A = .ok (.ldVxK 3) ∧
  decode 0x5341 = .error .group5 ∧ decode 0x0000 = .error .group0

/-- Decode and encode agree: the word of any instruction decodes to that instruction, every operand kept (R44, R46). -/
def Obligations.DecodeOfEncode : Prop :=
  ∀ i : Instr, decode (encode i) = .ok i

/-- Decoding loses no bit: the instruction read from a word has that word as its encoding (R43, R44, R46). -/
def Obligations.EncodeOfDecode : Prop :=
  ∀ (w : Word) (i : Instr), decode w = .ok i → encode i = w

/-- The decoder and the match and mask columns of R46 say the same: a word decodes iff it matches a row of the map, and
the instruction it decodes to belongs to a row the word matches. -/
def Obligations.DecodeFollowsOpcodeMap : Prop :=
  ∀ w : Word,
    ((∃ i, decode w = .ok i) ↔ ∃ r ∈ opcodeMap, r.matchesWord w = true) ∧
    ∀ i, decode w = .ok i → i.row.matchesWord w = true

/-- No word matches two rows of the map (R47). -/
def Obligations.OpcodeRowsDisjoint : Prop :=
  ∀ (w : Word), ∀ r₁ ∈ opcodeMap, ∀ r₂ ∈ opcodeMap, r₁.matchesWord w = true → r₂.matchesWord w = true → r₁ = r₂

/-- The words of each unmapped space of R48. -/
def Sys2Proof.unmappedWord (w : Word) : Unmapped → Prop
  | .group0 => (fieldOp w).toNat = 0x0 ∧ w ≠ 0x00E0 ∧ w ≠ 0x00EE
  | .group5 => (fieldOp w).toNat = 0x5 ∧ (fieldN w).toNat ≠ 0
  | .group8 => (fieldOp w).toNat = 0x8 ∧ (fieldN w).toNat ∈ [0x8, 0x9, 0xA, 0xB, 0xC, 0xD, 0xF]
  | .group9 => (fieldOp w).toNat = 0x9 ∧ (fieldN w).toNat ≠ 0
  | .groupE => (fieldOp w).toNat = 0xE ∧ (fieldNN w).toNat ∉ [0x9E, 0xA1]
  | .groupF =>
    (fieldOp w).toNat = 0xF ∧ (fieldNN w).toNat ∉ [0x07, 0x0A, 0x15, 0x18, 0x1E, 0x29, 0x33, 0x55, 0x65]

/-- The unmapped words are exactly those of the table of R48, space by space. -/
def Obligations.UnmappedWordsAreThoseListed : Prop :=
  ∀ (w : Word) (u : Unmapped), decode w = .error u ↔ unmappedWord w u

/-! ### The step -/

/-- When the two bytes at PC, the lower one the high byte, decode to an instruction, a step of a Running machine is that
instruction's meaning at that state, with nothing around it: the meaning itself makes the advance of R55 (log 16). Byte
order: decision D1 (log 1). -/
def Obligations.StepRunsDecodedInstr : Prop :=
  ∀ (s : State) (i : Instr),
    s.paused = false → s.fault = none → s.wait = none → s.pc.toNat + 1 ≤ 0xFFF →
    decode (s.mem.read s.pc.toNat ++ s.mem.read (s.pc.toNat + 1)) = .ok i →
    step s = exec i s

/-- R57: a fetched word that matches no row only advances PC by 2. -/
def Obligations.UnmappedWordOnlyAdvances : Prop :=
  ∀ (s : State) (w : Word) (u : Unmapped),
    s.isRunning = true → s.fetch = .ok w → decode w = .error u →
    step s = .next { s with pc := s.pc + 2 }

/-- R53: a step of a Halted or WaitingForKey machine changes no state at all and returns Idle. -/
def Obligations.StepIdleUnlessRunning : Prop :=
  ∀ s : State, s.paused = true ∨ s.fault ≠ none ∨ s.wait ≠ none →
    step s = .next s ∧ Transaction.step.apply s = (.stepped .idle, s)

/-- R54, R58, R107: with PC above 0xFFE the fetch faults at the first byte above 0xFFF; only the record is written, with
no word. Rollback and record: decision D4 (log 5). -/
def Obligations.FetchFaultRecorded : Prop :=
  ∀ s : State, s.isRunning = true → 0xFFE < s.pc.toNat →
    step s = .next { s with
      fault := some ⟨.outOfBoundsAccess, s.pc, none, some (if s.pc.toNat = 0xFFF then 0x1000 else s.pc.toNat)⟩ }

/-- A word placed with `withFetchWord` is the one the very next step runs, in any state with a canonical memory; the
placing touches only the latches of R25, PC and the two bytes. The model's own operation (log 18);
the canonical-memory premise is the model's too (log 17). -/
def Obligations.PlacedWordRunsNext : Prop :=
  ∀ (s : State) (w : Word) (i : Instr), s.mem.wf = true → decode w = .ok i →
    step (s.withFetchWord 16 w.toNat) = exec i (s.withFetchWord 16 w.toNat) ∧
    s.withFetchWord 16 w.toNat = { s with
      paused := false, fault := none, wait := none, pc := (s.withFetchWord 16 w.toNat).pc,
      mem := (s.withFetchWord 16 w.toNat).mem } ∧
    (s.withFetchWord 16 w.toNat).pc = (if s.pc.toNat + 1 ≤ 0xFFF then s.pc else 0x200) ∧
    (s.withFetchWord 16 w.toNat).mem.font = s.mem.font ∧
    ∀ a, a ≠ (s.withFetchWord 16 w.toNat).pc.toNat → a ≠ (s.withFetchWord 16 w.toNat).pc.toNat + 1 →
      (s.withFetchWord 16 w.toNat).mem.read a = s.mem.read a

/-- A step always answers a next state: a fault is the state with FAULT latched (R58, R108), and no instruction is
without a meaning. The model's choice of outcome (log 4). -/
def Obligations.StepAlwaysAnswersNext : Prop :=
  ∀ s : State, ∃ t, step s = .next t

/-- Faults are precise (R58, R107, R108; decision D4, log 5): when a step of a Running machine faults, the state is the
one the step began with, but for a record whose `pc` is that instruction's address and whose `word` is the fetched word,
or none where the fetch itself faulted. -/
def Obligations.FaultsArePrecise : Prop :=
  ∀ s t : State, s.isRunning = true → step s = .next t → t.fault ≠ none →
    ∃ r : FaultRecord, t = { s with fault := some r } ∧ r.pc = s.pc ∧
      ((∃ e, s.fetch = .error e) ∧ r.word = none ∨ ∃ w, s.fetch = .ok w ∧ r.word = some w)

/-- R106: a step's fault has one of three causes, each with its kind and address: an address above 0xFFF, `2nnn` at
capacity, `00EE` on an empty stack; `ProgramTooLarge` is never a step's. Record: decision D4 (log 5). -/
def Obligations.StepFaultCauses : Prop :=
  ∀ (s t : State) (r : FaultRecord), s.isRunning = true → step s = .next t → t.fault = some r →
    (r.kind = .outOfBoundsAccess ∧ ∃ a, r.addr = some a ∧ 0xFFF < a) ∨
    (r.kind = .stackOverflow ∧ r.addr = none ∧ 16 ≤ s.stack.length ∧ ∃ nnn, s.fetch = .ok (encode (.call nnn))) ∨
    (r.kind = .stackUnderflow ∧ r.addr = none ∧ s.stack = [] ∧ s.fetch = .ok (encode .ret))

/-! ### Invariant -/

/-- The state at construction with any FONT, which a reset gives back, meets the invariant; the reset state with the
default FONT too. The canonical-memory clause is the model's DESIGN CHOICE (log 17); construction as reset, the latches
at reset: decisions D19, D30 (log 14); FONT as a parameter: decision D2 (log 2). -/
def Obligations.InvariantAtReset : Prop := State.reset.Inv ∧ ∀ font : Font, (State.construct font).Inv

/-- Every step keeps the invariant: depth at most 16 (R19), PC at most 0x10FE (R18), return addresses at most 0x1000,
WAIT and FAULT never both set (R25), a record's address where PC still points (R58), memory canonical (the
model's DESIGN CHOICE, log 17). -/
def Obligations.StepKeepsInvariant : Prop :=
  ∀ s t : State, s.Inv → step s = .next t → t.Inv

/-- Every host transaction keeps the invariant, whatever its arguments (R121, R122), and none changes the machine's FONT,
from any state (R21, "fixed at construction and restored on reset"). The invariant's canonical-memory clause is the
model's DESIGN CHOICE (log 17), FONT as a parameter decision D2 (log 2). -/
def Obligations.TransactionsKeepInvariant : Prop :=
  ∀ (x : Transaction) (s : State), (s.Inv → (x.apply s).2.Inv) ∧ (x.apply s).2.mem.font = s.mem.font

/-! ### Reset and load -/

/-- The table of R28 after a reset from any state (R130), the machine's FONT at 0x000..0x04F whatever it is (R21). KEY,
DIRTY, PAUSED, FAULT: decisions D5, D30 (log 14); FONT as a parameter: decision D2 (log 2); the draw counter is the
model's own (log 6). -/
def Obligations.ResetGivesTable : Prop :=
  ∀ s : State, resetMachine s = { State.construct s.mem.font with draws := s.draws } ∧
    (∀ k, (resetMachine s).reg k = 0) ∧ (resetMachine s).i = 0 ∧ (resetMachine s).pc = 0x200 ∧
    (resetMachine s).stack = [] ∧
    (∀ a, (resetMachine s).mem.read a = if h : a < 0x50 then s.mem.font[a] else 0) ∧
    (∀ r c, (resetMachine s).fb.get r c = false) ∧ (∀ k : Fin 16, (resetMachine s).keys[k.val] = false) ∧
    (resetMachine s).wait = none ∧ (resetMachine s).dt = 0 ∧ (resetMachine s).st = 0 ∧
    (resetMachine s).paused = false ∧ (resetMachine s).fault = none ∧ (resetMachine s).dirty = true ∧
    (resetMachine s).runState = .running

/-- R132, R133: an image of at most 3584 bytes stands at 0x200 after a reset, with every other byte at its reset value,
the machine's FONT among them;
a longer one is refused with the ProgramTooLarge record in the reset state and nothing copied (decision D20, log 20). -/
def Obligations.LoadCopiesOrRefuses : Prop :=
  ∀ (image : List Byte) (s : State),
    (image.length ≤ 3584 →
      (load image s).1 = true ∧ (load image s).2 = { resetMachine s with mem := (load image s).2.mem } ∧
      (load image s).2.mem.font = s.mem.font ∧
      (∀ k (h : k < image.length), (load image s).2.mem.read (0x200 + k) = image[k]) ∧
      ∀ a, a < 0x200 ∨ 0x200 + image.length ≤ a → (load image s).2.mem.read a = (resetMachine s).mem.read a) ∧
    (3584 < image.length →
      load image s =
        (false, { resetMachine s with fault := some ⟨.programTooLarge, 0x200, none, some image.length⟩ }))

/-! ### Register and arithmetic instructions -/

/-- R81, R83, R85, R86: load immediate, copy, AND and XOR write V[x] and no other register, and leave PC at a + 2;
the clauses on `encode` here and below are the match and mask each rule gives. -/
def Obligations.LoadAndXorResults : Prop :=
  ∀ (s : State) (x y : RegIdx) (nn : Byte),
    (encode (.ldImm x nn) &&& 0xF000 = 0x6000 ∧
      ∃ t, exec (.ldImm x nn) s = .next t ∧ t.pc = s.pc + 2 ∧ t.fault = s.fault ∧
      ∀ j, t.reg j = if j = x then nn else s.reg j) ∧
    (encode (.ldReg x y) &&& 0xF00F = 0x8000 ∧
      ∃ t, exec (.ldReg x y) s = .next t ∧ t.pc = s.pc + 2 ∧ t.fault = s.fault ∧
      ∀ j, t.reg j = if j = x then s.reg y else s.reg j) ∧
    (encode (.andReg x y) &&& 0xF00F = 0x8002 ∧
      ∃ t, exec (.andReg x y) s = .next t ∧ t.pc = s.pc + 2 ∧ t.fault = s.fault ∧
      ∀ j, t.reg j = if j = x then s.reg x &&& s.reg y else s.reg j) ∧
    (encode (.xorReg x y) &&& 0xF00F = 0x8003 ∧
      ∃ t, exec (.xorReg x y) s = .next t ∧ t.pc = s.pc + 2 ∧ t.fault = s.fault ∧
      ∀ j, t.reg j = if j = x then s.reg x ^^^ s.reg y else s.reg j)

/-- R82, R84: add immediate modulo 256 with no carry reported, and OR; no register but V[x] changes, VF among them
(the rules mark that clause as derived from the frame rule). -/
def Obligations.AddImmediateAndOrResults : Prop :=
  ∀ (s : State) (x y : RegIdx) (nn : Byte),
    (∃ t, exec (.addImm x nn) s = .next t ∧ t.pc = s.pc + 2 ∧
      (t.reg x).toNat = ((s.reg x).toNat + nn.toNat) % 256 ∧ ∀ j, j ≠ x → t.reg j = s.reg j) ∧
    (∃ t, exec (.orReg x y) s = .next t ∧ t.pc = s.pc + 2 ∧
      ∀ j, t.reg j = if j = x then s.reg x ||| s.reg y else s.reg j)

/-- R87, R88: 8xy4 writes the sum modulo 256, then the carry, both from the operands before any write; for x = F the
carry is what VF keeps (decision D7, log 8). -/
def Obligations.AddCarryResult : Prop :=
  ∀ (s : State) (x y : RegIdx), ∃ t, exec (.addReg x y) s = .next t ∧ t.pc = s.pc + 2 ∧
    (x ≠ 0xF → (t.reg x).toNat = ((s.reg x).toNat + (s.reg y).toNat) % 256) ∧
    (t.reg 0xF).toNat = (if 255 < (s.reg x).toNat + (s.reg y).toNat then 1 else 0) ∧
    ∀ j, j ≠ x → j ≠ 0xF → t.reg j = s.reg j

/-- R87, R89, R91: 8xy5 and 8xy7 write 1 to VF iff the minuend is strictly greater, then the difference modulo 256 to
V[x]; for x = F the difference is what VF keeps (decision D7, log 8). -/
def Obligations.SubtractResults : Prop :=
  ∀ (s : State) (x y : RegIdx),
    (∃ t, exec (.subReg x y) s = .next t ∧ t.pc = s.pc + 2 ∧
      (t.reg x).toNat = (256 + (s.reg x).toNat - (s.reg y).toNat) % 256 ∧
      (x ≠ 0xF → (t.reg 0xF).toNat = if (s.reg y).toNat < (s.reg x).toNat then 1 else 0) ∧
      ∀ j, j ≠ x → j ≠ 0xF → t.reg j = s.reg j) ∧
    (∃ t, exec (.subnReg x y) s = .next t ∧ t.pc = s.pc + 2 ∧
      (t.reg x).toNat = (256 + (s.reg y).toNat - (s.reg x).toNat) % 256 ∧
      (x ≠ 0xF → (t.reg 0xF).toNat = if (s.reg x).toNat < (s.reg y).toNat then 1 else 0) ∧
      ∀ j, j ≠ x → j ≠ 0xF → t.reg j = s.reg j)

/-- R87, R90, R92: the shifts move V[x] by one bit whatever V[y] is, and VF gets the bit shifted out as 0 or 1; for
x = F the shifted value is what VF keeps (decisions D7, D24, logs 8 and 22). -/
def Obligations.ShiftResults : Prop :=
  ∀ (s : State) (x y : RegIdx),
    (∃ t, exec (.shrReg x y) s = .next t ∧ t.pc = s.pc + 2 ∧
      (t.reg x).toNat = (s.reg x).toNat / 2 ∧
      (x ≠ 0xF → (t.reg 0xF).toNat = (s.reg x).toNat % 2) ∧ ∀ j, j ≠ x → j ≠ 0xF → t.reg j = s.reg j) ∧
    (∃ t, exec (.shlReg x y) s = .next t ∧ t.pc = s.pc + 2 ∧
      (t.reg x).toNat = (s.reg x).toNat * 2 % 256 ∧
      (x ≠ 0xF → (t.reg 0xF).toNat = (s.reg x).toNat / 128) ∧ ∀ j, j ≠ x → j ≠ 0xF → t.reg j = s.reg j)

/-- R93: Cxnn writes a fresh draw under the mask; the draw is the free value Config.rand, so this holds for every byte
it may give (decision D16, log 6). -/
def Obligations.RandomResult : Prop :=
  ∀ (s : State) (x : RegIdx) (nn : Byte), ∃ t, exec (.rnd x nn) s = .next t ∧ t.pc = s.pc + 2 ∧
    t.draws = s.draws + 1 ∧ ∀ j, t.reg j = if j = x then Config.rand s.draws &&& nn else s.reg j

/-! ### Control transfer and skips -/

/-- R68: JP goes to nnn, widened with zeros; at its own address it repeats the state. -/
def Obligations.JumpResult : Prop :=
  ∀ (s : State) (nnn : Addr12), encode (.jp nnn) &&& 0xF000 = 0x1000 ∧
    ∃ t, exec (.jp nnn) s = .next t ∧ t.pc.toNat = nnn.toNat ∧ t.fault = s.fault ∧ (∀ j, t.reg j = s.reg j) ∧
      (nnn.toNat = s.pc.toNat → t = s)

/-- R69: CALL pushes a + 2 and goes to nnn while the stack holds fewer than 16 entries; at 16 it faults with
StackOverflow and the step is rolled back, so PC and the stack stay. -/
def Obligations.CallResult : Prop :=
  ∀ (s : State) (nnn : Addr12), encode (.call nnn) &&& 0xF000 = 0x2000 ∧
    (s.stack.length < 16 → ∃ t, exec (.call nnn) s = .next t ∧ t.stack = s.stack ++ [s.pc + 2] ∧
      t.pc.toNat = nnn.toNat ∧ t.fault = s.fault ∧ ∀ j, t.reg j = s.reg j) ∧
    (s.stack.length = 16 → ∃ r, exec (.call nnn) s = .next { s with fault := some r } ∧ r.kind = .stackOverflow)

/-- R67: RET pops the most recent entry into PC as it is; on an empty stack it faults with StackUnderflow and the step is
rolled back, so PC stays. -/
def Obligations.ReturnResult : Prop :=
  encode .ret = 0x00EE ∧ ∀ s : State,
    (∀ l w, s.stack = l ++ [w] → ∃ t, exec .ret s = .next t ∧ t.pc = w ∧ t.stack = l ∧ t.fault = s.fault ∧
      ∀ j, t.reg j = s.reg j) ∧
    (s.stack = [] → ∃ r, exec .ret s = .next { s with fault := some r } ∧ r.kind = .stackUnderflow)

/-- A call and a later return from the same depth come back to a + 2 with the stack as it was (example of R69; W9). -/
def Obligations.CallThenReturn : Prop :=
  ∀ (s t u : State) (nnn : Addr12), s.stack.length < 16 → exec (.call nnn) s = .next t → u.stack = t.stack →
    ∃ u', exec .ret u = .next u' ∧ u'.pc = s.pc + 2 ∧ u'.stack = s.stack

/-- R70: JP V0 goes to nnn + V[0], the sum not reduced modulo 4096 (decision D12, log 10). -/
def Obligations.JumpV0Result : Prop :=
  ∀ (s : State) (nnn : Addr12), ∃ t, exec (.jpV0 nnn) s = .next t ∧ t.pc.toNat = nnn.toNat + (s.reg 0).toNat

/-- R74 to R77: the four register skips go to a + 4 when their condition holds and to a + 2 when not, and fault
nowhere. -/
def Obligations.RegisterSkipResults : Prop :=
  ∀ (s : State) (x y : RegIdx) (nn : Byte),
    (encode (.seImm x nn) &&& 0xF000 = 0x3000 ∧
      ∃ t, exec (.seImm x nn) s = .next t ∧ t.fault = s.fault ∧ (∀ j, t.reg j = s.reg j) ∧
      t.pc = if s.reg x = nn then s.pc + 4 else s.pc + 2) ∧
    (encode (.sneImm x nn) &&& 0xF000 = 0x4000 ∧
      ∃ t, exec (.sneImm x nn) s = .next t ∧ t.fault = s.fault ∧ (∀ j, t.reg j = s.reg j) ∧
      t.pc = if s.reg x ≠ nn then s.pc + 4 else s.pc + 2) ∧
    (encode (.seReg x y) &&& 0xF00F = 0x5000 ∧
      ∃ t, exec (.seReg x y) s = .next t ∧ t.fault = s.fault ∧ (∀ j, t.reg j = s.reg j) ∧
      t.pc = if s.reg x = s.reg y then s.pc + 4 else s.pc + 2) ∧
    (encode (.sneReg x y) &&& 0xF00F = 0x9000 ∧
      ∃ t, exec (.sneReg x y) s = .next t ∧ t.fault = s.fault ∧ (∀ j, t.reg j = s.reg j) ∧
      t.pc = if s.reg x ≠ s.reg y then s.pc + 4 else s.pc + 2)

/-- R78 to R80: the key skips test the key whose number is V[x]; a number above 15 reads as not pressed (decision D8,
log 9), so SKP never skips on it and SKNP always does. -/
def Obligations.KeySkipResults : Prop :=
  ∀ (s : State) (x : RegIdx), ∃ t u, exec (.skp x) s = .next t ∧ exec (.sknp x) s = .next u ∧
    (∀ k : Fin 16, (s.reg x).toNat = k.val →
      t.pc = (if s.keys[k.val] = true then s.pc + 4 else s.pc + 2) ∧
      u.pc = (if s.keys[k.val] = true then s.pc + 2 else s.pc + 4)) ∧
    (16 ≤ (s.reg x).toNat → t.pc = s.pc + 2 ∧ u.pc = s.pc + 4)

/-- R68, R135 (b): a Running machine at a JP whose target is its own address repeats its state for ever (decision D23,
log 23). -/
def Obligations.SelfLoopRepeats : Prop :=
  ∀ s : State, s.endSelfLoop → step s = .next s

/-! ### Index register and memory -/

/-- R95: LD I writes nnn, widened with zeros. -/
def Obligations.SetIndexResult : Prop :=
  ∀ (s : State) (nnn : Addr12), encode (.ldI nnn) &&& 0xF000 = 0xA000 ∧
    ∃ t, exec (.ldI nnn) s = .next t ∧ t.pc = s.pc + 2 ∧ t.i.toNat = nnn.toNat ∧ t.fault = s.fault ∧ ∀ j, t.reg j = s.reg j

/-- R96, R97: ADD I wraps modulo 65536 and writes no register; LD F gives V[x] * 5 with no mask (decision D9, log 9). -/
def Obligations.IndexArithmeticResults : Prop :=
  ∀ (s : State) (x : RegIdx),
    (∃ t, exec (.addI x) s = .next t ∧ t.pc = s.pc + 2 ∧ t.i.toNat = (s.i.toNat + (s.reg x).toNat) % 65536 ∧
      ∀ j, t.reg j = s.reg j) ∧
    (∃ t, exec (.ldF x) s = .next t ∧ t.pc = s.pc + 2 ∧ t.i.toNat = (s.reg x).toNat * 5)

/-- R98: LD B stores hundreds, tens and units at I, I + 1, I + 2 and leaves I; when I + 2 is above 0xFFF it faults with
OutOfBoundsAccess at the lowest of the three addresses above 0xFFF, and writes no byte. The canonical-memory premise is
the model's (log 17). -/
def Obligations.StoreDecimalResult : Prop :=
  ∀ (s : State) (x : RegIdx), encode (.ldB x) &&& 0xF0FF = 0xF033 ∧ (s.mem.wf = true →
    (s.i.toNat + 2 ≤ 0xFFF → ∃ t, exec (.ldB x) s = .next t ∧ t.pc = s.pc + 2 ∧ t.i = s.i ∧ t.fault = s.fault ∧
      (t.mem.read s.i.toNat).toNat = (s.reg x).toNat / 100 ∧
      (t.mem.read (s.i.toNat + 1)).toNat = (s.reg x).toNat / 10 % 10 ∧
      (t.mem.read (s.i.toNat + 2)).toNat = (s.reg x).toNat % 10 ∧ ∀ j, t.reg j = s.reg j) ∧
    (0xFFF < s.i.toNat + 2 → ∃ t r a, exec (.ldB x) s = .next t ∧ t.fault = some r ∧ r.kind = .outOfBoundsAccess ∧
      r.addr = some a ∧ 0xFFF < a ∧ (a = s.i.toNat ∨ a = s.i.toNat + 1 ∨ a = s.i.toNat + 2) ∧
      (∀ b, s.i.toNat ≤ b → b < a → b ≤ 0xFFF) ∧ t.i = s.i ∧
      (∀ b, t.mem.read b = s.mem.read b) ∧ ∀ j, t.reg j = s.reg j))

/-- R99, R101: LD [I] stores V[0..x] at I upward and leaves I; when I + x is above 0xFFF it faults with address
max(I, 0x1000) and writes no byte (decisions D4, D10, D29, logs 5 and 9). The canonical-memory premise is the model's
(log 17). -/
def Obligations.StoreRegistersResult : Prop :=
  ∀ (s : State) (x : RegIdx), s.mem.wf = true →
    (s.i.toNat + x.val ≤ 0xFFF → ∃ t, exec (.stRegs x) s = .next t ∧ t.pc = s.pc + 2 ∧ t.i = s.i ∧
      t.fault = s.fault ∧ ∀ k : RegIdx, k.val ≤ x.val → t.mem.read (s.i.toNat + k.val) = s.reg k) ∧
    (0xFFF < s.i.toNat + x.val → exec (.stRegs x) s = .next { s with
      fault := some ⟨.outOfBoundsAccess, s.pc, some (encode (.stRegs x)), some (max s.i.toNat 0x1000)⟩ })

/-- R100, R101: LD Vx, [I] loads V[0..x] from I upward, and no other register; when I + x is above 0xFFF it faults with
address max(I, 0x1000) and writes no register (decisions D4, D10, D29, logs 5 and 9). -/
def Obligations.LoadRegistersResult : Prop :=
  ∀ (s : State) (x : RegIdx),
    (s.i.toNat + x.val ≤ 0xFFF → ∃ t, exec (.ldRegs x) s = .next t ∧ t.pc = s.pc + 2 ∧ t.i = s.i ∧
      t.fault = s.fault ∧
      ∀ k : RegIdx, t.reg k = if k.val ≤ x.val then s.mem.read (s.i.toNat + k.val) else s.reg k) ∧
    (0xFFF < s.i.toNat + x.val → exec (.ldRegs x) s = .next { s with
      fault := some ⟨.outOfBoundsAccess, s.pc, some (encode (.ldRegs x)), some (max s.i.toNat 0x1000)⟩ })

/-- R41: code stored by LD [I] is what a later fetch at that address reads, with no fence between. Byte order: decision D1
(log 1); the canonical-memory premise is the model's (log 17). -/
def Obligations.StoredCodeIsFetched : Prop :=
  ∀ (s t u : State) (x : RegIdx), s.mem.wf = true → 1 ≤ x.val → s.i.toNat + x.val ≤ 0xFFF →
    exec (.stRegs x) s = .next t → u.mem = t.mem → u.pc = s.i → u.fetch = .ok (s.reg 0 ++ s.reg 1)

/-! ### Display -/

/-- R62: CLS leaves every cell unlit and marks DIRTY, on a clear screen too (decision D15, log 13). -/
def Obligations.ClearResult : Prop :=
  ∀ s : State, ∃ t, exec .cls s = .next t ∧ t.pc = s.pc + 2 ∧ t.dirty = true ∧ ∀ r c, t.fb.get r c = false

/-- Some set bit of the n sprite bytes at I falls on cell (r, c) when drawn at origin (V[x], V[y]): byte k, column
offset j, which is bit 7 - j (R63, R64). -/
def Sys2Proof.Machine.spriteHits (s : State) (x y : RegIdx) (n : Nibble) (r c : Nat) : Prop :=
  ∃ k j, k < n.toNat ∧ j < 8 ∧ (s.mem.read (s.i.toNat + k)).getLsbD (7 - j) = true ∧
    r = ((s.reg y).toNat + k) % 32 ∧ c = ((s.reg x).toNat + j) % 64

/-- R63, R64: DRW inverts exactly the cells its set bits fall on, wrapped modulo 64 and 32, sets VF iff one of them was
lit, and marks DIRTY, with n = 0 too; I stays. Bit order: decision D3 (log 3). -/
def Obligations.DrawResult : Prop :=
  ∀ (s : State) (x y : RegIdx) (n : Nibble), n.toNat = 0 ∨ s.i.toNat + n.toNat ≤ 0x1000 →
    ∃ t, exec (.drw x y n) s = .next t ∧ t.pc = s.pc + 2 ∧ t.i = s.i ∧ t.dirty = true ∧ t.fault = s.fault ∧
      (∀ r c, spriteHits s x y n r.val c.val → t.fb.get r c = !s.fb.get r c) ∧
      (∀ r c, ¬spriteHits s x y n r.val c.val → t.fb.get r c = s.fb.get r c) ∧
      ((∃ r c, spriteHits s x y n r.val c.val ∧ s.fb.get r c = true) → t.reg 0xF = 1) ∧
      ((∀ r c, spriteHits s x y n r.val c.val → s.fb.get r c = false) → t.reg 0xF = 0)

/-- R64, R101: DRW with a sprite byte above 0xFFF faults at max(I, 0x1000) and changes nothing else (decisions D4, D29,
log 5). -/
def Obligations.DrawFault : Prop :=
  ∀ (s : State) (x y : RegIdx) (n : Nibble), 1 ≤ n.toNat → 0x1000 < s.i.toNat + n.toNat →
    exec (.drw x y n) s = .next { s with
      fault := some ⟨.outOfBoundsAccess, s.pc, some (encode (.drw x y n)), some (max s.i.toNat 0x1000)⟩ }

/-- R65: drawing the same rows at the same origin twice restores every cell. -/
def Obligations.DrawTwiceRestores : Prop :=
  ∀ (fb : Framebuffer) (ox oy : Nat) (rows : List Byte), rows.length ≤ 15 →
    (drawSprite (drawSprite fb ox oy rows).fb ox oy rows).fb = fb

/-- R66: the first draw reports a collision iff some set bit falls on a lit cell, the second iff some set bit falls on a
cell unlit before the first. That bit 7 - j falls on column j is decision D3, PRESUMED (log 3). -/
def Obligations.RepeatedDrawCollision : Prop :=
  ∀ (fb : Framebuffer) (ox oy : Nat) (rows : List Byte), rows.length ≤ 15 →
    ((drawSprite fb ox oy rows).collision = true ↔
      ∃ k j, ∃ h : k < rows.length, j < 8 ∧ rows[k].getLsbD (7 - j) = true ∧
        fb.get (wrapRow (oy + k)) (wrapCol (ox + j)) = true) ∧
    ((drawSprite (drawSprite fb ox oy rows).fb ox oy rows).collision = true ↔
      ∃ k j, ∃ h : k < rows.length, j < 8 ∧ rows[k].getLsbD (7 - j) = true ∧
        fb.get (wrapRow (oy + k)) (wrapCol (ox + j)) = false)

/-! ### Timers and key wait -/

/-- R102, R104: LD Vx, DT copies the delay timer, which stays; LD DT, Vx sets it to any value of V[x]. -/
def Obligations.DelayTimerResults : Prop :=
  ∀ (s : State) (x : RegIdx),
    (encode (.ldVxDt x) &&& 0xF0FF = 0xF007 ∧
      ∃ t, exec (.ldVxDt x) s = .next t ∧ t.pc = s.pc + 2 ∧ t.dt = s.dt ∧ t.fault = s.fault ∧
      ∀ j, t.reg j = if j = x then s.dt else s.reg j) ∧
    (encode (.ldDtVx x) &&& 0xF0FF = 0xF015 ∧
      ∃ t, exec (.ldDtVx x) s = .next t ∧ t.pc = s.pc + 2 ∧ t.dt = s.reg x ∧ t.fault = s.fault ∧
      ∀ j, t.reg j = s.reg j)

/-- R105: LD ST, Vx sets the sound timer; the next tick reports the tone iff the value set was above 1. -/
def Obligations.SoundTimerResult : Prop :=
  ∀ (s : State) (x : RegIdx), ∃ t, exec (.ldStVx x) s = .next t ∧ t.pc = s.pc + 2 ∧ t.st = s.reg x ∧
    (tickTimer t).1 = decide (1 < (s.reg x).toNat)

/-- R103: LD Vx, K arms the wait for register x, writes no register, whatever keys are held (decision D25, log 21), and
the steps after it are idle. -/
def Obligations.KeyWaitArms : Prop :=
  ∀ (s : State) (x : RegIdx), ∃ t, exec (.ldVxK x) s = .next t ∧ t.pc = s.pc + 2 ∧ t.wait = some x ∧
    (∀ j, t.reg j = s.reg j) ∧ step t = .next t

/-- R113: a tick counts each timer down by one to a floor of 0, reports whether the sound timer is still non-zero, and
changes nothing else; "changes nothing else" is the frame rule R11 (decision D11). -/
def Obligations.TickCountsDown : Prop :=
  ∀ s : State, (tickTimer s).2.dt.toNat = s.dt.toNat - 1 ∧ (tickTimer s).2.st.toNat = s.st.toNat - 1 ∧
    (tickTimer s).1 = decide ((tickTimer s).2.st.toNat ≠ 0) ∧
    (tickTimer s).2 = { s with dt := (tickTimer s).2.dt, st := (tickTimer s).2.st }

/-! ### Host transactions -/

/-- R116 to R118: a key event in range writes KEY[k] only there; a press resolves a pending wait by writing k to the
waiting register, and a release does not; an index above 15 changes nothing. Paused or not (decisions D6, D25, D26). -/
def Obligations.KeyEventResults : Prop :=
  ∀ (s : State) (k : Nat) (p : Bool),
    (16 ≤ k → setKey k p s = s) ∧
    (∀ h : k < 16,
      (∀ j : Fin 16, (setKey k p s).keys[j.val] = if j.val = k then p else s.keys[j.val]) ∧
      ((p = false ∨ s.wait = none) → setKey k p s = { s with keys := (setKey k p s).keys }) ∧
      (∀ x, p = true → s.wait = some x →
        (setKey k p s).wait = none ∧ (∀ j, ((setKey k p s).reg j).toNat = if j = x then k else (s.reg j).toNat) ∧
        setKey k p s = { s with keys := (setKey k p s).keys, v := (setKey k p s).v, wait := none }))

/-- R109: a recorded fault stays through every transaction but reset and load (decision D5, log 7). -/
def Obligations.FaultIsSticky : Prop :=
  ∀ (x : Transaction) (s : State) (r : FaultRecord), s.fault = some r →
    x ≠ .reset → (∀ image, x ≠ .load image) → (x.apply s).2.fault = some r

/-- R123, R124: pause and resume write PAUSED only, so a wait or a fault pending across them is still there, and resume
makes the machine Running exactly when neither is (decisions D5, D6, log 7). -/
def Obligations.PauseAndResume : Prop :=
  ∀ s : State, pause s = { s with paused := true } ∧ (pause s).runState = .halted ∧
    resume s = { s with paused := false } ∧
    ((resume s).runState = .running ↔ s.wait = none ∧ s.fault = none) ∧
    ((resume s).runState = .waitingForKey ↔ s.wait ≠ none ∧ s.fault = none)

/-- R119, R120: a snapshot is the grid and changes nothing; a frame report returns DIRTY and clears it, so the next one
returns 0 unless something is drawn between (decision D15, log 13). -/
def Obligations.SnapshotAndFrameReport : Prop :=
  ∀ s : State, Transaction.snapshot.apply s = (.grid s.fb, s) ∧
    Transaction.frameReport.apply s = (.wasDirty s.dirty, { s with dirty := false }) ∧
    Transaction.frameReport.apply (Transaction.frameReport.apply s).2 = (.wasDirty false, { s with dirty := false })

/-- R60: what a call of step() returns: Idle with nothing changed when not Running; else Faulted with the kind just
recorded, or Ok with no fault recorded (decision D4, log 5). -/
def Obligations.StepResultReported : Prop :=
  ∀ s : State,
    (s.isRunning = false → Transaction.step.apply s = (.stepped .idle, s)) ∧
    (s.isRunning = true → ∃ t, step s = .next t ∧ (Transaction.step.apply s).2 = t ∧
      (∀ r, t.fault = some r → (Transaction.step.apply s).1 = .stepped (.faulted r.kind)) ∧
      (t.fault = none → (Transaction.step.apply s).1 = .stepped .ok))

/-! ### Frames (R11, decision D11) -/

/-- The register writers (6xnn, 7xnn, 8xy0 to 8xy3, Fx07) change V[x] and PC only; the flag writers 8xy4 to 8xyE change
V[x], VF and PC only; RND changes V[x], PC and the model's draw counter only. Rests on the frame rule R11 (decision D11, log 9). -/
def Obligations.RegisterInstrFrames : Prop :=
  ∀ (s t : State) (x y : RegIdx) (nn : Byte),
    (exec (.ldImm x nn) s = .next t ∨ exec (.addImm x nn) s = .next t ∨ exec (.ldReg x y) s = .next t ∨
      exec (.orReg x y) s = .next t ∨ exec (.andReg x y) s = .next t ∨ exec (.xorReg x y) s = .next t ∨
      exec (.ldVxDt x) s = .next t → Footprint.Unchanged { regs := fun j => j == x, pc := true } s t) ∧
    (exec (.addReg x y) s = .next t ∨ exec (.subReg x y) s = .next t ∨ exec (.shrReg x y) s = .next t ∨
      exec (.subnReg x y) s = .next t ∨ exec (.shlReg x y) s = .next t →
      Footprint.Unchanged { regs := fun j => j == x || j == 0xF, pc := true } s t) ∧
    (exec (.rnd x nn) s = .next t → Footprint.Unchanged { regs := fun j => j == x, pc := true, draws := true } s t)

/-- The jumps and skips change PC only; CALL and RET change PC and the stack, or latch the fault, only.
Rests on the frame rule R11 (decision D11, log 9). -/
def Obligations.ControlInstrFrames : Prop :=
  ∀ (s t : State) (x y : RegIdx) (nn : Byte) (nnn : Addr12),
    (exec (.jp nnn) s = .next t ∨ exec (.jpV0 nnn) s = .next t ∨ exec (.seImm x nn) s = .next t ∨
      exec (.sneImm x nn) s = .next t ∨ exec (.seReg x y) s = .next t ∨ exec (.sneReg x y) s = .next t ∨
      exec (.skp x) s = .next t ∨ exec (.sknp x) s = .next t → Footprint.Unchanged { pc := true } s t) ∧
    (exec (.call nnn) s = .next t ∨ exec .ret s = .next t →
      Footprint.Unchanged { pc := true, stack := true, fault := true } s t)

/-- LD I, ADD I and LD F change I and PC only; LD DT, LD ST and LD Vx, K change their own timer or the wait, and PC,
only. Rests on the frame rule R11 (decision D11, log 9). -/
def Obligations.IndexAndTimerInstrFrames : Prop :=
  ∀ (s t : State) (x : RegIdx) (nnn : Addr12),
    (exec (.ldI nnn) s = .next t ∨ exec (.addI x) s = .next t ∨ exec (.ldF x) s = .next t →
      Footprint.Unchanged { i := true, pc := true } s t) ∧
    (exec (.ldDtVx x) s = .next t → Footprint.Unchanged { dt := true, pc := true } s t) ∧
    (exec (.ldStVx x) s = .next t → Footprint.Unchanged { st := true, pc := true } s t) ∧
    (exec (.ldVxK x) s = .next t → Footprint.Unchanged { wait := true, pc := true } s t)

/-- LD B changes the three bytes from I, LD [I] the x + 1 bytes from I, LD Vx, [I] the registers V[0..x]; each of them
PC, or the fault latch, besides, and nothing else: I stays (R101; decision D10). Rests on the frame rule R11 (decision D11, log 9). -/
def Obligations.MemoryInstrFrames : Prop :=
  ∀ (s t : State) (x : RegIdx),
    (exec (.ldB x) s = .next t → Footprint.Unchanged
      { mem := fun a => decide (s.base ≤ a ∧ a < s.base + 3), pc := true, fault := true } s t) ∧
    (exec (.stRegs x) s = .next t → Footprint.Unchanged
      { mem := fun a => decide (s.base ≤ a ∧ a < s.base + (x.val + 1)), pc := true, fault := true } s t) ∧
    (exec (.ldRegs x) s = .next t → Footprint.Unchanged
      { regs := fun j => decide (j.val ≤ x.val), pc := true, fault := true } s t)

/-- CLS changes the grid, DIRTY and PC only; DRW changes the grid, DIRTY, VF and PC, or the fault latch, only.
Rests on the frame rule R11 (decision D11, log 9). -/
def Obligations.DisplayInstrFrames : Prop :=
  ∀ (s t : State) (x y : RegIdx) (n : Nibble),
    (exec .cls s = .next t → Footprint.Unchanged { fb := true, dirty := true, pc := true } s t) ∧
    (exec (.drw x y n) s = .next t → Footprint.Unchanged
      { regs := fun j => j == 0xF, fb := true, dirty := true, pc := true, fault := true } s t)

/-! ### Whole-machine rules -/

/-- Over all instructions, who writes what (R14, R17, R19, R23, R24, R30): I only by Annn, Fx1E, Fx29; the stack only by
2nnn and 00EE; memory only by Fx33 and Fx55; the grid and DIRTY only by 00E0 and Dxyn; DT only by Fx15, ST only by Fx18,
WAIT only by Fx0A; KEY and PAUSED by none, nor the parameter FONT (R21). Rests on the frame rule R11 (decision D11, log 9). -/
def Obligations.WritersOfEachElement : Prop :=
  ∀ (i : Instr) (s t : State), exec i s = .next t →
    (t.i ≠ s.i → (∃ nnn, i = .ldI nnn) ∨ (∃ x, i = .addI x) ∨ ∃ x, i = .ldF x) ∧
    (t.stack ≠ s.stack → (∃ nnn, i = .call nnn) ∨ i = .ret) ∧
    (t.mem ≠ s.mem → (∃ x, i = .ldB x) ∨ ∃ x, i = .stRegs x) ∧
    (t.fb ≠ s.fb ∨ t.dirty ≠ s.dirty → i = .cls ∨ ∃ x y n, i = .drw x y n) ∧
    (t.dt ≠ s.dt → ∃ x, i = .ldDtVx x) ∧ (t.st ≠ s.st → ∃ x, i = .ldStVx x) ∧
    (t.wait ≠ s.wait → ∃ x, i = .ldVxK x) ∧ t.keys = s.keys ∧ t.paused = s.paused ∧
    t.mem.font = s.mem.font

/-- R16: VF as a flag is written only by 8xy4, 8xy5, 8xy6, 8xy7, 8xyE and Dxyn; any other instruction that changes VF
names register F as its destination x or loads the whole range V[0..F]. Rests on the frame rule R11 (decision D11, log 9). -/
def Obligations.FlagWritersOnly : Prop :=
  ∀ (i : Instr) (s t : State), exec i s = .next t → t.reg 0xF ≠ s.reg 0xF →
    (∃ x y, i = .addReg x y ∨ i = .subReg x y ∨ i = .shrReg x y ∨ i = .subnReg x y ∨ i = .shlReg x y) ∨
    (∃ x y n, i = .drw x y n) ∨
    (∃ y nn, i = .ldImm 0xF nn ∨ i = .addImm 0xF nn ∨ i = .rnd 0xF nn ∨ i = .ldReg 0xF y ∨ i = .orReg 0xF y ∨
      i = .andReg 0xF y ∨ i = .xorReg 0xF y ∨ i = .ldVxDt 0xF ∨ i = .ldRegs 0xF)
end

