-- ==== Sys2Proof/Laws/Decode.lean ====
section
/-! SUPPORT. Laws of the fields, the word builders and the byte order (spec/30_encoding.md R43, R44; spec/20_memory.md
R33). -/

namespace Sys2Proof

/-! ### The bits of a built word -/

theorem getElem_wordXYN (op n : Nibble) (x y : RegIdx) (i : Nat) (h : i < 16) :
    (wordXYN op x y n)[i] =
      if i < 4 then n.getLsbD i
      else if i - 4 < 4 then (BitVec.ofFin (w := 4) y).getLsbD (i - 4)
      else if i - 4 - 4 < 4 then (BitVec.ofFin (w := 4) x).getLsbD (i - 4 - 4)
      else op.getLsbD (i - 4 - 4 - 4) := by
  rw [← BitVec.getLsbD_eq_getElem]
  change BitVec.getLsbD (op ++ BitVec.ofFin (w := 4) x ++ BitVec.ofFin (w := 4) y ++ n : BitVec (4 + 4 + 4 + 4)) i = _
  simp only [BitVec.getLsbD_append]

theorem getElem_wordXNN (op : Nibble) (x : RegIdx) (nn : Byte) (i : Nat) (h : i < 16) :
    (wordXNN op x nn)[i] =
      if i < 8 then nn.getLsbD i
      else if i - 8 < 4 then (BitVec.ofFin (w := 4) x).getLsbD (i - 8)
      else op.getLsbD (i - 8 - 4) := by
  rw [← BitVec.getLsbD_eq_getElem]
  change BitVec.getLsbD (op ++ BitVec.ofFin (w := 4) x ++ nn : BitVec (4 + 4 + 8)) i = _
  simp only [BitVec.getLsbD_append]

theorem getElem_wordNNN (op : Nibble) (nnn : Addr12) (i : Nat) (h : i < 16) :
    (wordNNN op nnn)[i] = if i < 12 then nnn.getLsbD i else op.getLsbD (i - 12) := by
  rw [← BitVec.getLsbD_eq_getElem]
  change BitVec.getLsbD (op ++ nnn : BitVec (4 + 12)) i = _
  simp only [BitVec.getLsbD_append]

theorem getElem_wordOfBytes (hi lo : Byte) (i : Nat) (h : i < 16) :
    (wordOfBytes hi lo)[i] = if i < 8 then lo.getLsbD i else hi.getLsbD (i - 8) := by
  rw [← BitVec.getLsbD_eq_getElem]
  change BitVec.getLsbD (hi ++ lo : BitVec (8 + 8)) i = _
  simp only [BitVec.getLsbD_append]

/-! ### The fields of a built word -/

@[simp] theorem fieldOp_wordXYN (op n : Nibble) (x y : RegIdx) : fieldOp (wordXYN op x y n) = op := by
  refine BitVec.eq_of_getLsbD_eq fun i hi => ?_
  interval_cases i <;> simp [fieldOp, getElem_wordXYN]

@[simp] theorem fieldX_wordXYN (op n : Nibble) (x y : RegIdx) : fieldX (wordXYN op x y n) = x := by
  have h : (wordXYN op x y n).extractLsb' 8 4 = BitVec.ofFin (w := 4) x := by
    refine BitVec.eq_of_getLsbD_eq fun i hi => ?_
    interval_cases i <;> simp [getElem_wordXYN]
  simp only [fieldX, h]

@[simp] theorem fieldY_wordXYN (op n : Nibble) (x y : RegIdx) : fieldY (wordXYN op x y n) = y := by
  have h : (wordXYN op x y n).extractLsb' 4 4 = BitVec.ofFin (w := 4) y := by
    refine BitVec.eq_of_getLsbD_eq fun i hi => ?_
    interval_cases i <;> simp [getElem_wordXYN]
  simp only [fieldY, h]

@[simp] theorem fieldN_wordXYN (op n : Nibble) (x y : RegIdx) : fieldN (wordXYN op x y n) = n := by
  refine BitVec.eq_of_getLsbD_eq fun i hi => ?_
  interval_cases i <;> simp [fieldN, getElem_wordXYN]

@[simp] theorem fieldOp_wordXNN (op : Nibble) (x : RegIdx) (nn : Byte) : fieldOp (wordXNN op x nn) = op := by
  refine BitVec.eq_of_getLsbD_eq fun i hi => ?_
  interval_cases i <;> simp [fieldOp, getElem_wordXNN]

@[simp] theorem fieldX_wordXNN (op : Nibble) (x : RegIdx) (nn : Byte) : fieldX (wordXNN op x nn) = x := by
  have h : (wordXNN op x nn).extractLsb' 8 4 = BitVec.ofFin (w := 4) x := by
    refine BitVec.eq_of_getLsbD_eq fun i hi => ?_
    interval_cases i <;> simp [getElem_wordXNN]
  simp only [fieldX, h]

@[simp] theorem fieldNN_wordXNN (op : Nibble) (x : RegIdx) (nn : Byte) : fieldNN (wordXNN op x nn) = nn := by
  refine BitVec.eq_of_getLsbD_eq fun i hi => ?_
  interval_cases i <;> simp [fieldNN, getElem_wordXNN]

@[simp] theorem fieldOp_wordNNN (op : Nibble) (nnn : Addr12) : fieldOp (wordNNN op nnn) = op := by
  refine BitVec.eq_of_getLsbD_eq fun i hi => ?_
  interval_cases i <;> simp [fieldOp, getElem_wordNNN]

@[simp] theorem fieldNNN_wordNNN (op : Nibble) (nnn : Addr12) : fieldNNN (wordNNN op nnn) = nnn := by
  refine BitVec.eq_of_getLsbD_eq fun i hi => ?_
  interval_cases i <;> simp [fieldNNN, getElem_wordNNN]

/-! ### A word built from its own fields -/

theorem ofFin_fieldX (w : Word) : BitVec.ofFin (w := 4) (fieldX w) = w.extractLsb' 8 4 := rfl

theorem ofFin_fieldY (w : Word) : BitVec.ofFin (w := 4) (fieldY w) = w.extractLsb' 4 4 := rfl

theorem wordXYN_fields (w : Word) : wordXYN (fieldOp w) (fieldX w) (fieldY w) (fieldN w) = w := by
  refine BitVec.eq_of_getLsbD_eq fun i hi => ?_
  interval_cases i <;> simp [getElem_wordXYN, fieldOp, ofFin_fieldX, ofFin_fieldY, fieldN]

theorem wordXNN_fields (w : Word) : wordXNN (fieldOp w) (fieldX w) (fieldNN w) = w := by
  refine BitVec.eq_of_getLsbD_eq fun i hi => ?_
  interval_cases i <;> simp [getElem_wordXNN, fieldOp, ofFin_fieldX, fieldNN]

theorem wordNNN_fields (w : Word) : wordNNN (fieldOp w) (fieldNNN w) = w := by
  refine BitVec.eq_of_getLsbD_eq fun i hi => ?_
  interval_cases i <;> simp [getElem_wordNNN, fieldOp, fieldNNN]

/-! ### Byte order -/

/-- The two bytes of a word, high byte first, give the word back (R33). -/
@[simp] theorem wordOfBytes_hiByte_loByte (w : Word) : wordOfBytes (hiByte w) (loByte w) = w := by
  refine BitVec.eq_of_getLsbD_eq fun i hi => ?_
  interval_cases i <;> simp [getElem_wordOfBytes, hiByte, loByte]

@[simp] theorem hiByte_wordOfBytes (a b : Byte) : hiByte (wordOfBytes a b) = a := by
  refine BitVec.eq_of_getLsbD_eq fun i hi => ?_
  interval_cases i <;> simp [getElem_wordOfBytes, hiByte]

@[simp] theorem loByte_wordOfBytes (a b : Byte) : loByte (wordOfBytes a b) = b := by
  refine BitVec.eq_of_getLsbD_eq fun i hi => ?_
  interval_cases i <;> simp [getElem_wordOfBytes, loByte]

/-! ### Masks -/

theorem wordNNN_and_mask (op : Nibble) (nnn : Addr12) : wordNNN op nnn &&& 0xF000#16 = wordNNN op 0 := by
  refine BitVec.eq_of_getLsbD_eq fun i hi => ?_
  interval_cases i <;> simp [getElem_wordNNN]

theorem wordXNN_and_maskOp (op : Nibble) (x : RegIdx) (nn : Byte) :
    wordXNN op x nn &&& 0xF000#16 = wordXNN op 0 0 := by
  refine BitVec.eq_of_getLsbD_eq fun i hi => ?_
  interval_cases i <;> simp [getElem_wordXNN]

theorem wordXNN_and_mask (op : Nibble) (x : RegIdx) (nn : Byte) :
    wordXNN op x nn &&& 0xF0FF#16 = wordXNN op 0 nn := by
  refine BitVec.eq_of_getLsbD_eq fun i hi => ?_
  interval_cases i <;> simp [getElem_wordXNN]

theorem wordXYN_and_maskOp (op n : Nibble) (x y : RegIdx) : wordXYN op x y n &&& 0xF000#16 = wordXYN op 0 0 0 := by
  refine BitVec.eq_of_getLsbD_eq fun i hi => ?_
  interval_cases i <;> simp [getElem_wordXYN]

theorem wordXYN_and_mask (op n : Nibble) (x y : RegIdx) : wordXYN op x y n &&& 0xF00F#16 = wordXYN op 0 0 n := by
  refine BitVec.eq_of_getLsbD_eq fun i hi => ?_
  interval_cases i <;> simp [getElem_wordXYN]

end Sys2Proof
end

