-- ==== Sys2Proof/Laws/Framebuffer.lean ====
section
/-! SUPPORT. Laws of the framebuffer: a cell read after a cell write, and one plotted sprite bit (spec/41_display.md
R63). -/

namespace Sys2Proof.Machine

/-- Two grids that agree at every cell are equal. -/
theorem Framebuffer.ext_get {f g : Framebuffer} (h : ∀ r c, f.get r c = g.get r c) : f = g :=
  Vector.ext fun r hr => Vector.ext fun c hc => h ⟨r, hr⟩ ⟨c, hc⟩

/-- A cell read after a cell write. -/
theorem Framebuffer.get_set (f : Framebuffer) (r r' : Fin Config.fbRows) (c c' : Fin Config.fbCols) (b : Bool) :
    (f.set r c b).get r' c' = if r' = r ∧ c' = c then b else f.get r' c' := by
  simp only [Framebuffer.get, Framebuffer.set, Vector.getElem_set, Fin.ext_iff]
  by_cases hr : r.val = r'.val
  · by_cases hc : c.val = c'.val
    · simp [hr, hc]
    · simp [hr, hc, Ne.symm hc]
  · simp [hr, Ne.symm hr]

@[simp] theorem Framebuffer.get_blank (r : Fin Config.fbRows) (c : Fin Config.fbCols) :
    Framebuffer.blank.get r c = false := by
  simp [Framebuffer.get, Framebuffer.blank]

/-- Plotting inverts exactly the plotted cell. -/
theorem Drawing.plot_get (d : Drawing) (r r' : Fin Config.fbRows) (c c' : Fin Config.fbCols) :
    (d.plot r c).fb.get r' c' = (d.fb.get r' c' ^^ decide (r' = r ∧ c' = c)) := by
  simp only [Drawing.plot, Framebuffer.get_set]
  by_cases h : r' = r ∧ c' = c
  · simp [h]
  · simp [h]

/-- Plotting reports a collision iff there was one before or the cell was lit. -/
@[simp] theorem Drawing.plot_collision (d : Drawing) (r : Fin Config.fbRows) (c : Fin Config.fbCols) :
    (d.plot r c).collision = (d.collision || d.fb.get r c) := rfl

/-! ### drawSprite (R63) -/

/-- Column offsets less than 64 apart are different columns. -/
theorem wrapCol_ne {ox i j : Nat} (hi : i < j) (hj : j < i + 64) : wrapCol (ox + j) ≠ wrapCol (ox + i) := by
  simp only [wrapCol, ne_eq, Fin.mk.injEq]; show ¬(_ % 64 = _ % 64); omega

/-- Row offsets less than 32 apart are different rows. -/
theorem wrapRow_ne {oy i j : Nat} (hi : i < j) (hj : j < i + 32) : wrapRow (oy + j) ≠ wrapRow (oy + i) := by
  simp only [wrapRow, ne_eq, Fin.mk.injEq]; show ¬(_ % 32 = _ % 32); omega

/-- Some set bit of the row at a column offset from `lo` to 7 falls on column `c`. -/
def columnHit (ox : Nat) (row : Byte) (lo : Nat) (c : Fin Config.fbCols) : Prop :=
  ∃ j, lo ≤ j ∧ j < 8 ∧ spriteBit row j = true ∧ c = wrapCol (ox + j)

/-- What the columns of one sprite row do: exactly the hit cells of the row are inverted, and a collision is reported iff
one of them was lit; no cell is met twice, so the order of the columns is of no account (R63). -/
theorem Drawing.columns_spec (ty : Fin Config.fbRows) (ox : Nat) (row : Byte) (k : Nat) (hk : k ≤ 8) (d : Drawing) :
    (∀ r c, (Drawing.columns ty ox row k d).fb.get r c = true ↔
      (d.fb.get r c = true ↔ ¬(r = ty ∧ columnHit ox row (8 - k) c))) ∧
    ((Drawing.columns ty ox row k d).collision = true ↔
      d.collision = true ∨ ∃ c, columnHit ox row (8 - k) c ∧ d.fb.get ty c = true) := by
  induction k generalizing d with
  | zero =>
    have h0 : ∀ c, ¬columnHit ox row 8 c := fun c ⟨j, h1, h2, _⟩ => by omega
    simp [Drawing.columns, h0]
  | succ k ih =>
    have hsplit : ∀ c, columnHit ox row (8 - (k + 1)) c ↔
        (spriteBit row (7 - k) = true ∧ c = wrapCol (ox + (7 - k))) ∨ columnHit ox row (8 - k) c := by
      intro c
      constructor
      · rintro ⟨j, h1, h2, h3, h4⟩
        by_cases hj : j = 7 - k
        · exact .inl (hj ▸ ⟨h3, h4⟩)
        · exact .inr ⟨j, by omega, h2, h3, h4⟩
      · rintro (⟨h3, h4⟩ | ⟨j, h1, h2, h3, h4⟩)
        · exact ⟨7 - k, by omega, by omega, h3, h4⟩
        · exact ⟨j, by omega, h2, h3, h4⟩
    have hnot : ¬columnHit ox row (8 - k) (wrapCol (ox + (7 - k))) := by
      rintro ⟨j, h1, h2, _, h4⟩
      exact wrapCol_ne (ox := ox) (i := 7 - k) (j := j) (by omega) (by omega) h4.symm
    simp only [Drawing.columns]
    by_cases hb : spriteBit row (7 - k) = true
    · rw [if_pos hb]
      obtain ⟨ih1, ih2⟩ := ih (by omega) (d.plot ty (wrapCol (ox + (7 - k))))
      refine ⟨fun r c => ?_, ?_⟩
      · rw [ih1, Drawing.plot_get, hsplit]
        by_cases hr : r = ty
        · by_cases hc : c = wrapCol (ox + (7 - k))
          · subst hc; subst hr; simp [hb, hnot]
          · simp [hr, hc]
        · simp [hr]
      · rw [ih2, Drawing.plot_collision]
        simp only [hsplit, hb, true_and, Drawing.plot_get, Bool.or_eq_true]
        constructor
        · rintro ((h | h) | ⟨c, h1, h2⟩)
          · exact .inl h
          · exact .inr ⟨_, .inl rfl, h⟩
          · refine .inr ⟨c, .inr h1, ?_⟩
            have : c ≠ wrapCol (ox + (7 - k)) := fun h => hnot (h ▸ h1)
            simpa [this] using h2
        · rintro (h | ⟨c, h1 | h1, h2⟩)
          · exact .inl (.inl h)
          · subst h1; exact .inl (.inr h2)
          · refine .inr ⟨c, h1, ?_⟩
            have : c ≠ wrapCol (ox + (7 - k)) := fun h => hnot (h ▸ h1)
            simpa [this] using h2
    · rw [if_neg hb]
      obtain ⟨ih1, ih2⟩ := ih (by omega) d
      simp only [hsplit, hb, false_and, false_or, Bool.false_eq_true]
      exact ⟨ih1, ih2⟩

/-- Some set bit of the rows, drawn from origin column `ox` and row `oy` down, falls on cell `(r, c)` (R63). -/
def spriteHit (ox oy : Nat) (rows : List Byte) (r : Fin Config.fbRows) (c : Fin Config.fbCols) : Prop :=
  ∃ k j, ∃ h : k < rows.length, j < 8 ∧ spriteBit rows[k] j = true ∧ r = wrapRow (oy + k) ∧ c = wrapCol (ox + j)

/-- What the rows of a sprite do, at most 32 of them: exactly the hit cells are inverted, and a collision is reported iff
one of them was lit before (R63). -/
theorem Drawing.rows_spec (ox oy : Nat) (rows : List Byte) (hl : rows.length ≤ 32) (d : Drawing) :
    (∀ r c, (Drawing.rows ox oy rows d).fb.get r c = true ↔ (d.fb.get r c = true ↔ ¬spriteHit ox oy rows r c)) ∧
    ((Drawing.rows ox oy rows d).collision = true ↔
      d.collision = true ∨ ∃ r c, spriteHit ox oy rows r c ∧ d.fb.get r c = true) := by
  induction rows generalizing oy d with
  | nil =>
    have h0 : ∀ r c, ¬spriteHit ox oy [] r c := fun r c ⟨k, j, h, _⟩ => by simp at h
    simp [Drawing.rows, h0]
  | cons row rest ih =>
    simp only [List.length_cons] at hl
    obtain ⟨c1, c2⟩ := Drawing.columns_spec (wrapRow oy) ox row 8 (le_refl 8) d
    obtain ⟨ih1, ih2⟩ := ih (oy + 1) (by omega) (Drawing.columns (wrapRow oy) ox row 8 d)
    have hsplit : ∀ r c, spriteHit ox oy (row :: rest) r c ↔
        (r = wrapRow oy ∧ columnHit ox row (8 - 8) c) ∨ spriteHit ox (oy + 1) rest r c := by
      intro r c
      constructor
      · rintro ⟨k, j, h, h1, h2, h3, h4⟩
        cases k with
        | zero => exact .inl ⟨h3, j, by omega, h1, h2, h4⟩
        | succ k => exact .inr ⟨k, j, by simpa using h, h1, h2, by rw [h3]; congr 1; omega, h4⟩
      · rintro (⟨h3, j, _, h1, h2, h4⟩ | ⟨k, j, h, h1, h2, h3, h4⟩)
        · exact ⟨0, j, by simp, h1, h2, h3, h4⟩
        · exact ⟨k + 1, j, by simpa using h, h1, h2, by rw [h3]; congr 1; omega, h4⟩
    have hnot : ∀ c, ¬spriteHit ox (oy + 1) rest (wrapRow oy) c := by
      rintro c ⟨k, j, h, _, _, h3, _⟩
      have := wrapRow_ne (oy := oy) (i := 0) (j := k + 1) (by omega) (by omega)
      apply this
      rw [show oy + (k + 1) = oy + 1 + k by omega]
      exact h3.symm
    refine ⟨fun r c => ?_, ?_⟩
    · rw [Drawing.rows, ih1, c1, hsplit]
      by_cases hr : r = wrapRow oy
      · subst hr; simp [hnot]
      · simp [hr]
    · rw [Drawing.rows, ih2, c2]
      simp only [hsplit, c1]
      constructor
      · rintro ((h | ⟨c, h1, h2⟩) | ⟨r, c, h1, h2⟩)
        · exact .inl h
        · exact .inr ⟨_, c, .inl ⟨rfl, h1⟩, h2⟩
        · have : r ≠ wrapRow oy := fun h => hnot c (h ▸ h1)
          exact .inr ⟨r, c, .inr h1, by simpa [this] using h2⟩
      · rintro (h | ⟨r, c, ⟨h0, h1⟩ | h1, h2⟩)
        · exact .inl (.inl h)
        · subst h0; exact .inl (.inr ⟨c, h1, h2⟩)
        · have : r ≠ wrapRow oy := fun h => hnot c (h ▸ h1)
          exact .inr ⟨r, c, h1, by simpa [this] using h2⟩

/-- `drawSprite` said once: the hit cells are inverted, and the collision is that one of them was lit (R63). -/
theorem drawSprite_spec (fb : Framebuffer) (ox oy : Nat) (rows : List Byte) (hl : rows.length ≤ 32) :
    (∀ r c, (drawSprite fb ox oy rows).fb.get r c = true ↔ (fb.get r c = true ↔ ¬spriteHit ox oy rows r c)) ∧
    ((drawSprite fb ox oy rows).collision = true ↔ ∃ r c, spriteHit ox oy rows r c ∧ fb.get r c = true) := by
  simpa [drawSprite] using Drawing.rows_spec ox oy rows hl ⟨fb, false⟩

end Sys2Proof.Machine
end

