-- ==== Sys2Proof/Laws/Memory.lean ====
section
/-! SUPPORT. Laws of the memory: a read after a write, the canonical form every operation keeps, and what the
bound-checked byte sequences do (spec/20_memory.md R31, R35, R38; spec/45_index_memory.md R101). -/

namespace Sys2Proof.Machine

/-! ### Cells -/

theorem Cells.lookup_cell_append_same (font : Font) (a : Nat) (b : Byte) (m : Cells) (h : m.lookup a = none) :
    Cells.lookup a (Cells.cell font a b ++ m) = if b = Memory.unlisted font a then none else some b := by
  unfold Cells.cell
  split <;> simp [Cells.lookup, h]

theorem Cells.lookup_cell_append_ne (font : Font) (a a' : Nat) (b : Byte) (m : Cells) (h : a' ≠ a) :
    Cells.lookup a' (Cells.cell font a b ++ m) = m.lookup a' := by
  unfold Cells.cell
  split <;> simp [Cells.lookup, h]

theorem Cells.lookup_of_lt {font : Font} {lo a : Nat} {m : Cells} (hm : m.wfFrom font lo = true) (h : a < lo) : m.lookup a = none := by
  induction m generalizing lo with
  | nil => rfl
  | cons c rest ih =>
    obtain ⟨k, b⟩ := c
    simp only [Cells.wfFrom, Bool.and_eq_true, decide_eq_true_eq] at hm
    have hne : a ≠ k := by omega
    rw [Cells.lookup, if_neg hne]
    exact ih hm.2 (by omega)

theorem Cells.lookup_write_same {font : Font} {lo a : Nat} {b : Byte} {m : Cells} (hm : m.wfFrom font lo = true) :
    (m.write font a b).lookup a = if b = Memory.unlisted font a then none else some b := by
  induction m generalizing lo with
  | nil => simpa [Cells.write] using Cells.lookup_cell_append_same font a b [] rfl
  | cons c rest ih =>
    obtain ⟨k, v⟩ := c
    have hw := hm
    simp only [Cells.wfFrom, Bool.and_eq_true, decide_eq_true_eq] at hm
    rw [Cells.write]
    split
    · rename_i hlt
      refine Cells.lookup_cell_append_same font a b _ ?_
      rw [Cells.lookup, if_neg (by omega)]
      exact Cells.lookup_of_lt hm.2 (by omega)
    · split
      · rename_i heq
        subst heq
        exact Cells.lookup_cell_append_same _ _ _ _ (Cells.lookup_of_lt hm.2 (by omega))
      · rename_i hne
        rw [Cells.lookup, if_neg hne]
        exact ih hm.2

theorem Cells.lookup_write_ne {font : Font} {a a' : Nat} {b : Byte} (m : Cells) (h : a' ≠ a) :
    (m.write font a b).lookup a' = m.lookup a' := by
  induction m with
  | nil => simpa [Cells.write] using Cells.lookup_cell_append_ne font a a' b [] h
  | cons c rest ih =>
    obtain ⟨k, v⟩ := c
    rw [Cells.write]
    split
    · exact Cells.lookup_cell_append_ne font a a' b _ h
    · split
      · rename_i heq
        subst heq
        rw [Cells.lookup_cell_append_ne _ _ _ _ _ h, Cells.lookup, if_neg h]
      · simp only [Cells.lookup, ih]

theorem Cells.wfFrom_cell_append {font : Font} {lo a : Nat} {b : Byte} {m : Cells} (hlo : lo ≤ a) (ha : a < Config.memSize)
    (hm : m.wfFrom font (a + 1) = true) : Cells.wfFrom font lo (Cells.cell font a b ++ m) = true := by
  unfold Cells.cell
  split
  · rw [List.nil_append]
    cases m with
    | nil => rfl
    | cons c rest =>
      simp only [Cells.wfFrom, Bool.and_eq_true, decide_eq_true_eq] at hm ⊢
      exact ⟨⟨⟨by omega, hm.1.1.2⟩, hm.1.2⟩, hm.2⟩
  · rename_i hb
    simp only [List.cons_append, List.nil_append, Cells.wfFrom, Bool.and_eq_true, decide_eq_true_eq]
    exact ⟨⟨⟨hlo, ha⟩, hb⟩, hm⟩

theorem Cells.wfFrom_write {font : Font} {lo a : Nat} {b : Byte} {m : Cells} (hm : m.wfFrom font lo = true) (hlo : lo ≤ a)
    (ha : a < Config.memSize) : (m.write font a b).wfFrom font lo = true := by
  induction m generalizing lo with
  | nil => simpa [Cells.write] using Cells.wfFrom_cell_append (b := b) (m := []) hlo ha rfl
  | cons c rest ih =>
    obtain ⟨k, v⟩ := c
    have h := hm
    simp only [Cells.wfFrom, Bool.and_eq_true, decide_eq_true_eq] at h
    rw [Cells.write]
    split
    · refine Cells.wfFrom_cell_append hlo ha ?_
      simp only [Cells.wfFrom, Bool.and_eq_true, decide_eq_true_eq]
      exact ⟨⟨⟨by omega, h.1.1.2⟩, h.1.2⟩, h.2⟩
    · split
      · rename_i heq
        subst heq
        exact Cells.wfFrom_cell_append hlo ha h.2
      · simp only [Cells.wfFrom, Bool.and_eq_true, decide_eq_true_eq]
        exact ⟨⟨⟨h.1.1.1, h.1.1.2⟩, h.1.2⟩, ih h.2 (by omega)⟩

/-! ### One location -/

@[simp] theorem Memory.write_font (m : Memory) (a : Nat) (b : Byte) : (m.write a b).font = m.font := rfl

/-- A machine that nothing has written holds its font at 0x000 to 0x04F and 0 above (R28). -/
@[simp] theorem Memory.read_nil (font : Font) (a : Nat) : Memory.read ⟨font, []⟩ a = Memory.unlisted font a := rfl

/-- A read after a write to the same address gives the byte written (R35). -/
theorem Memory.read_write_same {a : Nat} {b : Byte} {m : Memory} (hm : m.wf = true) : (m.write a b).read a = b := by
  unfold Memory.read Memory.write
  rw [Cells.lookup_write_same hm]
  split <;> simp [*]

/-- A write changes only the addressed byte (R35). -/
theorem Memory.read_write_ne {a a' : Nat} {b : Byte} (m : Memory) (h : a' ≠ a) :
    (m.write a b).read a' = m.read a' := by
  unfold Memory.read Memory.write
  rw [Cells.lookup_write_ne m.cells h]

/-- A write inside the address space keeps the canonical form. -/
theorem Memory.write_wf {a : Nat} {b : Byte} {m : Memory} (hm : m.wf = true) (ha : a < Config.memSize) :
    (m.write a b).wf = true :=
  Cells.wfFrom_write hm (Nat.zero_le a) ha

/-! ### Ascending bytes -/

@[simp] theorem Memory.writeAll_font (m : Memory) (a : Nat) (bs : List Byte) : (m.writeAll a bs).font = m.font := by
  induction bs generalizing m a with
  | nil => rfl
  | cons b bs ih => exact ih (m.write a b) (a + 1)

theorem Memory.writeAll_wf {m : Memory} (hm : m.wf = true) (a : Nat) (bs : List Byte)
    (h : a + bs.length ≤ Config.memSize) : (m.writeAll a bs).wf = true := by
  induction bs generalizing m a with
  | nil => exact hm
  | cons b bs ih =>
    simp only [List.length_cons] at h
    exact ih (Memory.write_wf hm (by omega)) (a + 1) (by omega)

/-- Bytes below the first address written keep their value, and so do those past the last. -/
theorem Memory.read_writeAll_outside (m : Memory) (a : Nat) (bs : List Byte) (a' : Nat)
    (h : a' < a ∨ a + bs.length ≤ a') : (m.writeAll a bs).read a' = m.read a' := by
  induction bs generalizing m a with
  | nil => rfl
  | cons b bs ih =>
    simp only [List.length_cons] at h
    rw [Memory.writeAll, ih _ _ (by omega), Memory.read_write_ne m (by omega)]

/-- Each byte written reads back. -/
theorem Memory.read_writeAll {m : Memory} (hm : m.wf = true) (a : Nat) (bs : List Byte)
    (h : a + bs.length ≤ Config.memSize) (k : Nat) (hk : k < bs.length) :
    (m.writeAll a bs).read (a + k) = bs[k] := by
  induction bs generalizing m a k with
  | nil => simp at hk
  | cons b bs ih =>
    simp only [List.length_cons] at h hk
    rw [Memory.writeAll]
    cases k with
    | zero =>
      exact (Memory.read_writeAll_outside _ _ _ a (by omega)).trans (Memory.read_write_same hm)
    | succ k =>
      have := ih (Memory.write_wf (b := b) hm (show a < Config.memSize by omega)) (a + 1) (by omega) k (by omega)
      rw [Nat.add_right_comm, Nat.add_assoc] at this
      simpa using this

/-- What `writeBytes` does: every byte is written, or the first address above 0xFFF is reported (R31, R101). -/
theorem writeBytes_eq (m : Memory) (a : Nat) (bs : List Byte) :
    writeBytes m a bs =
      if bs = [] ∨ a + bs.length ≤ Config.memSize then .ok (m.writeAll a bs)
      else .error (outOfBounds (max a Config.memSize)) := by
  induction bs generalizing m a with
  | nil => simp [writeBytes, Memory.writeAll]
  | cons b bs ih =>
    simp only [writeBytes, memWrite, List.length_cons, reduceCtorEq, false_or, Memory.writeAll]
    by_cases ha : a < Config.memSize
    · rw [if_pos ha]
      simp only [ih]
      by_cases hb : bs = []
      · subst hb
        rw [if_pos (Or.inl rfl), if_pos (by simpa using ha)]
      · have hl : 0 < bs.length := List.length_pos_iff.mpr hb
        by_cases hf : a + (bs.length + 1) ≤ Config.memSize
        · rw [if_pos hf, if_pos (Or.inr (by omega))]
        · rw [if_neg hf, if_neg (by simp only [hb, false_or]; omega),
            show max (a + 1) Config.memSize = max a Config.memSize by omega]
    · rw [if_neg ha, if_neg (by omega), Nat.max_eq_left (by omega)]

/-- The bytes that `readBytes` finds at ascending addresses. -/
def bytesAt (m : Memory) (a : Nat) : Nat → List Byte
  | 0 => []
  | k + 1 => m.read a :: bytesAt m (a + 1) k

@[simp] theorem bytesAt_length (m : Memory) (a k : Nat) : (bytesAt m a k).length = k := by
  induction k generalizing a with
  | zero => rfl
  | succ k ih => simp [bytesAt, ih]

@[simp] theorem bytesAt_getElem (m : Memory) (a k j : Nat) (h : j < (bytesAt m a k).length) :
    (bytesAt m a k)[j] = m.read (a + j) := by
  induction k generalizing a j with
  | zero => simp [bytesAt] at h
  | succ k ih =>
    cases j with
    | zero => rfl
    | succ j => simp [bytesAt, ih, Nat.add_assoc, Nat.add_comm 1 j]

/-- What `readBytes` does: every byte is read, or the first address above 0xFFF is reported (R31, R101). -/
theorem readBytes_eq (m : Memory) (a k : Nat) :
    readBytes m a k =
      if k = 0 ∨ a + k ≤ Config.memSize then .ok (bytesAt m a k)
      else .error (outOfBounds (max a Config.memSize)) := by
  induction k generalizing a with
  | zero => simp [readBytes, bytesAt]
  | succ k ih =>
    simp only [readBytes, memRead, Nat.add_eq_zero_iff, one_ne_zero, and_false, false_or, bytesAt]
    by_cases ha : a < Config.memSize
    · rw [if_pos ha]
      simp only [ih]
      by_cases hk : k = 0
      · subst hk
        rw [if_pos (Or.inl rfl), if_pos (by omega)]
      · by_cases hf : a + (k + 1) ≤ Config.memSize
        · rw [if_pos hf, if_pos (Or.inr (by omega))]
        · rw [if_neg hf, if_neg (by omega), show max (a + 1) Config.memSize = max a Config.memSize by omega]
    · rw [if_neg ha, if_neg (by omega), Nat.max_eq_left (by omega)]

/-- What the fetch of two bytes does: the word, or the fault at the first byte above 0xFFF (R54). -/
theorem memReadWord_eq (m : Memory) (a : Nat) :
    memReadWord m a =
      if a + 1 < Config.memSize then .ok (wordOfBytes (m.read a) (m.read (a + 1)))
      else .error (outOfBounds (max a Config.memSize)) := by
  simp only [memReadWord, memRead]
  by_cases ha : a < Config.memSize
  · rw [if_pos ha]
    by_cases hb : a + 1 < Config.memSize
    · simp only [if_pos hb]
    · simp only [if_neg hb]
      rw [show a + 1 = max a Config.memSize by omega]
  · simp only [if_neg ha]
    rw [if_neg (by omega), Nat.max_eq_left (by omega)]

end Sys2Proof.Machine
end

