-- ==== Sys2Proof/Laws/Operands.lean ====
section
/-! SUPPORT. Laws of the operand forms: the register range of `Fx55` and `Fx65` (spec/45_index_memory.md R99, R100),
decimal digits (R98) and the widths of computed addresses (spec/42_control_flow.md R70, R97). -/

namespace Sys2Proof.Machine

@[simp] theorem State.regsUpTo_length (s : State) (x : RegIdx) : (s.regsUpTo x).length = x.val + 1 := by
  simp only [State.regsUpTo, List.length_take, Vector.length_toList]
  omega

@[simp] theorem State.regsUpTo_getElem (s : State) (x : RegIdx) (k : Nat) (h : k < (s.regsUpTo x).length) :
    (s.regsUpTo x)[k] = s.reg ⟨k, by simp at h; omega⟩ := by
  simp [State.regsUpTo, State.reg]

@[simp] theorem decimalDigits_length (b : Byte) : (decimalDigits b).length = 3 := rfl

/-- `loadRegs` writes the bytes in order from register `k` and no other register. -/
theorem loadRegs_getElem (v : Vector Byte 16) (k : Nat) (bs : List Byte) (j : RegIdx) :
    (loadRegs v k bs)[j.val] = if h : k ≤ j.val ∧ j.val < k + bs.length then bs[j.val - k]'(by omega) else v[j.val] := by
  induction bs generalizing v k with
  | nil =>
    have : ¬(k ≤ j.val ∧ j.val < k + ([] : List Byte).length) := by simp only [List.length_nil]; omega
    simp only [loadRegs, dif_neg this]
  | cons b bs ih =>
    simp only [loadRegs, ih, List.length_cons]
    by_cases hj : k + 1 ≤ j.val ∧ j.val < k + 1 + bs.length
    · have hj' : k ≤ j.val ∧ j.val < k + (bs.length + 1) := by omega
      rw [dif_pos hj, dif_pos hj', List.getElem_cons, dif_neg (by omega)]
      simp only [show j.val - k - 1 = j.val - (k + 1) by omega]
    · rw [dif_neg hj]
      by_cases hk : j.val = k
      · have hj' : k ≤ j.val ∧ j.val < k + (bs.length + 1) := by omega
        have hlt : k < 16 := by omega
        rw [dif_pos hj', dif_pos hlt, Vector.getElem_set, if_pos hk.symm]
        simp [hk]
      · have hj' : ¬(k ≤ j.val ∧ j.val < k + (bs.length + 1)) := by omega
        rw [dif_neg hj']
        split
        · rw [Vector.getElem_set, if_neg (by omega)]
        · rfl

@[simp] theorem zext_toNat (nnn : Addr12) : (zext nnn).toNat = nnn.toNat := by
  have := nnn.isLt
  simp only [zext, BitVec.toNat_setWidth]
  omega

@[simp] theorem byteWord_toNat (b : Byte) : (byteWord b).toNat = b.toNat := by
  have := b.isLt
  simp only [byteWord, BitVec.toNat_setWidth]
  omega

@[simp] theorem glyphAddr_toNat (b : Byte) : (glyphAddr b).toNat = b.toNat * 5 := by
  have := b.isLt
  simp only [glyphAddr, BitVec.toNat_ofNat]
  omega

end Sys2Proof.Machine
end

