-- ==== Sys2Proof/Laws/State.lean ====
section
/-! SUPPORT. One lemma per field per named update of the state, and the register read after each: no later proof unfolds
a record update. -/

namespace Sys2Proof.Machine

variable (s : State)

/-! ### setV -/

@[simp] theorem State.setV_v (v : Vector Byte 16) : (s.setV v).v = v := rfl
@[simp] theorem State.setV_i (v : Vector Byte 16) : (s.setV v).i = s.i := rfl
@[simp] theorem State.setV_pc (v : Vector Byte 16) : (s.setV v).pc = s.pc := rfl
@[simp] theorem State.setV_stack (v : Vector Byte 16) : (s.setV v).stack = s.stack := rfl
@[simp] theorem State.setV_mem (v : Vector Byte 16) : (s.setV v).mem = s.mem := rfl
@[simp] theorem State.setV_fb (v : Vector Byte 16) : (s.setV v).fb = s.fb := rfl
@[simp] theorem State.setV_keys (v : Vector Byte 16) : (s.setV v).keys = s.keys := rfl
@[simp] theorem State.setV_wait (v : Vector Byte 16) : (s.setV v).wait = s.wait := rfl
@[simp] theorem State.setV_dt (v : Vector Byte 16) : (s.setV v).dt = s.dt := rfl
@[simp] theorem State.setV_st (v : Vector Byte 16) : (s.setV v).st = s.st := rfl
@[simp] theorem State.setV_paused (v : Vector Byte 16) : (s.setV v).paused = s.paused := rfl
@[simp] theorem State.setV_fault (v : Vector Byte 16) : (s.setV v).fault = s.fault := rfl
@[simp] theorem State.setV_dirty (v : Vector Byte 16) : (s.setV v).dirty = s.dirty := rfl
@[simp] theorem State.setV_draws (v : Vector Byte 16) : (s.setV v).draws = s.draws := rfl

/-! ### setI -/

@[simp] theorem State.setI_v (w : Word) : (s.setI w).v = s.v := rfl
@[simp] theorem State.setI_i (w : Word) : (s.setI w).i = w := rfl
@[simp] theorem State.setI_pc (w : Word) : (s.setI w).pc = s.pc := rfl
@[simp] theorem State.setI_stack (w : Word) : (s.setI w).stack = s.stack := rfl
@[simp] theorem State.setI_mem (w : Word) : (s.setI w).mem = s.mem := rfl
@[simp] theorem State.setI_fb (w : Word) : (s.setI w).fb = s.fb := rfl
@[simp] theorem State.setI_keys (w : Word) : (s.setI w).keys = s.keys := rfl
@[simp] theorem State.setI_wait (w : Word) : (s.setI w).wait = s.wait := rfl
@[simp] theorem State.setI_dt (w : Word) : (s.setI w).dt = s.dt := rfl
@[simp] theorem State.setI_st (w : Word) : (s.setI w).st = s.st := rfl
@[simp] theorem State.setI_paused (w : Word) : (s.setI w).paused = s.paused := rfl
@[simp] theorem State.setI_fault (w : Word) : (s.setI w).fault = s.fault := rfl
@[simp] theorem State.setI_dirty (w : Word) : (s.setI w).dirty = s.dirty := rfl
@[simp] theorem State.setI_draws (w : Word) : (s.setI w).draws = s.draws := rfl
@[simp] theorem State.setI_reg (w : Word) (j : RegIdx) : (s.setI w).reg j = s.reg j := rfl

/-! ### setPc -/

@[simp] theorem State.setPc_v (w : Word) : (s.setPc w).v = s.v := rfl
@[simp] theorem State.setPc_i (w : Word) : (s.setPc w).i = s.i := rfl
@[simp] theorem State.setPc_pc (w : Word) : (s.setPc w).pc = w := rfl
@[simp] theorem State.setPc_stack (w : Word) : (s.setPc w).stack = s.stack := rfl
@[simp] theorem State.setPc_mem (w : Word) : (s.setPc w).mem = s.mem := rfl
@[simp] theorem State.setPc_fb (w : Word) : (s.setPc w).fb = s.fb := rfl
@[simp] theorem State.setPc_keys (w : Word) : (s.setPc w).keys = s.keys := rfl
@[simp] theorem State.setPc_wait (w : Word) : (s.setPc w).wait = s.wait := rfl
@[simp] theorem State.setPc_dt (w : Word) : (s.setPc w).dt = s.dt := rfl
@[simp] theorem State.setPc_st (w : Word) : (s.setPc w).st = s.st := rfl
@[simp] theorem State.setPc_paused (w : Word) : (s.setPc w).paused = s.paused := rfl
@[simp] theorem State.setPc_fault (w : Word) : (s.setPc w).fault = s.fault := rfl
@[simp] theorem State.setPc_dirty (w : Word) : (s.setPc w).dirty = s.dirty := rfl
@[simp] theorem State.setPc_draws (w : Word) : (s.setPc w).draws = s.draws := rfl
@[simp] theorem State.setPc_reg (w : Word) (j : RegIdx) : (s.setPc w).reg j = s.reg j := rfl

/-! ### setStack -/

@[simp] theorem State.setStack_v (l : List Word) : (s.setStack l).v = s.v := rfl
@[simp] theorem State.setStack_i (l : List Word) : (s.setStack l).i = s.i := rfl
@[simp] theorem State.setStack_pc (l : List Word) : (s.setStack l).pc = s.pc := rfl
@[simp] theorem State.setStack_stack (l : List Word) : (s.setStack l).stack = l := rfl
@[simp] theorem State.setStack_mem (l : List Word) : (s.setStack l).mem = s.mem := rfl
@[simp] theorem State.setStack_fb (l : List Word) : (s.setStack l).fb = s.fb := rfl
@[simp] theorem State.setStack_keys (l : List Word) : (s.setStack l).keys = s.keys := rfl
@[simp] theorem State.setStack_wait (l : List Word) : (s.setStack l).wait = s.wait := rfl
@[simp] theorem State.setStack_dt (l : List Word) : (s.setStack l).dt = s.dt := rfl
@[simp] theorem State.setStack_st (l : List Word) : (s.setStack l).st = s.st := rfl
@[simp] theorem State.setStack_paused (l : List Word) : (s.setStack l).paused = s.paused := rfl
@[simp] theorem State.setStack_fault (l : List Word) : (s.setStack l).fault = s.fault := rfl
@[simp] theorem State.setStack_dirty (l : List Word) : (s.setStack l).dirty = s.dirty := rfl
@[simp] theorem State.setStack_draws (l : List Word) : (s.setStack l).draws = s.draws := rfl
@[simp] theorem State.setStack_reg (l : List Word) (j : RegIdx) : (s.setStack l).reg j = s.reg j := rfl

/-! ### setMem -/

@[simp] theorem State.setMem_v (m : Memory) : (s.setMem m).v = s.v := rfl
@[simp] theorem State.setMem_i (m : Memory) : (s.setMem m).i = s.i := rfl
@[simp] theorem State.setMem_pc (m : Memory) : (s.setMem m).pc = s.pc := rfl
@[simp] theorem State.setMem_stack (m : Memory) : (s.setMem m).stack = s.stack := rfl
@[simp] theorem State.setMem_mem (m : Memory) : (s.setMem m).mem = m := rfl
@[simp] theorem State.setMem_fb (m : Memory) : (s.setMem m).fb = s.fb := rfl
@[simp] theorem State.setMem_keys (m : Memory) : (s.setMem m).keys = s.keys := rfl
@[simp] theorem State.setMem_wait (m : Memory) : (s.setMem m).wait = s.wait := rfl
@[simp] theorem State.setMem_dt (m : Memory) : (s.setMem m).dt = s.dt := rfl
@[simp] theorem State.setMem_st (m : Memory) : (s.setMem m).st = s.st := rfl
@[simp] theorem State.setMem_paused (m : Memory) : (s.setMem m).paused = s.paused := rfl
@[simp] theorem State.setMem_fault (m : Memory) : (s.setMem m).fault = s.fault := rfl
@[simp] theorem State.setMem_dirty (m : Memory) : (s.setMem m).dirty = s.dirty := rfl
@[simp] theorem State.setMem_draws (m : Memory) : (s.setMem m).draws = s.draws := rfl
@[simp] theorem State.setMem_reg (m : Memory) (j : RegIdx) : (s.setMem m).reg j = s.reg j := rfl

/-! ### setFb -/

@[simp] theorem State.setFb_v (f : Framebuffer) : (s.setFb f).v = s.v := rfl
@[simp] theorem State.setFb_i (f : Framebuffer) : (s.setFb f).i = s.i := rfl
@[simp] theorem State.setFb_pc (f : Framebuffer) : (s.setFb f).pc = s.pc := rfl
@[simp] theorem State.setFb_stack (f : Framebuffer) : (s.setFb f).stack = s.stack := rfl
@[simp] theorem State.setFb_mem (f : Framebuffer) : (s.setFb f).mem = s.mem := rfl
@[simp] theorem State.setFb_fb (f : Framebuffer) : (s.setFb f).fb = f := rfl
@[simp] theorem State.setFb_keys (f : Framebuffer) : (s.setFb f).keys = s.keys := rfl
@[simp] theorem State.setFb_wait (f : Framebuffer) : (s.setFb f).wait = s.wait := rfl
@[simp] theorem State.setFb_dt (f : Framebuffer) : (s.setFb f).dt = s.dt := rfl
@[simp] theorem State.setFb_st (f : Framebuffer) : (s.setFb f).st = s.st := rfl
@[simp] theorem State.setFb_paused (f : Framebuffer) : (s.setFb f).paused = s.paused := rfl
@[simp] theorem State.setFb_fault (f : Framebuffer) : (s.setFb f).fault = s.fault := rfl
@[simp] theorem State.setFb_dirty (f : Framebuffer) : (s.setFb f).dirty = s.dirty := rfl
@[simp] theorem State.setFb_draws (f : Framebuffer) : (s.setFb f).draws = s.draws := rfl
@[simp] theorem State.setFb_reg (f : Framebuffer) (j : RegIdx) : (s.setFb f).reg j = s.reg j := rfl

/-! ### setKeys -/

@[simp] theorem State.setKeys_v (k : Vector Bool 16) : (s.setKeys k).v = s.v := rfl
@[simp] theorem State.setKeys_i (k : Vector Bool 16) : (s.setKeys k).i = s.i := rfl
@[simp] theorem State.setKeys_pc (k : Vector Bool 16) : (s.setKeys k).pc = s.pc := rfl
@[simp] theorem State.setKeys_stack (k : Vector Bool 16) : (s.setKeys k).stack = s.stack := rfl
@[simp] theorem State.setKeys_mem (k : Vector Bool 16) : (s.setKeys k).mem = s.mem := rfl
@[simp] theorem State.setKeys_fb (k : Vector Bool 16) : (s.setKeys k).fb = s.fb := rfl
@[simp] theorem State.setKeys_keys (k : Vector Bool 16) : (s.setKeys k).keys = k := rfl
@[simp] theorem State.setKeys_wait (k : Vector Bool 16) : (s.setKeys k).wait = s.wait := rfl
@[simp] theorem State.setKeys_dt (k : Vector Bool 16) : (s.setKeys k).dt = s.dt := rfl
@[simp] theorem State.setKeys_st (k : Vector Bool 16) : (s.setKeys k).st = s.st := rfl
@[simp] theorem State.setKeys_paused (k : Vector Bool 16) : (s.setKeys k).paused = s.paused := rfl
@[simp] theorem State.setKeys_fault (k : Vector Bool 16) : (s.setKeys k).fault = s.fault := rfl
@[simp] theorem State.setKeys_dirty (k : Vector Bool 16) : (s.setKeys k).dirty = s.dirty := rfl
@[simp] theorem State.setKeys_draws (k : Vector Bool 16) : (s.setKeys k).draws = s.draws := rfl
@[simp] theorem State.setKeys_reg (k : Vector Bool 16) (j : RegIdx) : (s.setKeys k).reg j = s.reg j := rfl

/-! ### setWait -/

@[simp] theorem State.setWait_v (w : Option RegIdx) : (s.setWait w).v = s.v := rfl
@[simp] theorem State.setWait_i (w : Option RegIdx) : (s.setWait w).i = s.i := rfl
@[simp] theorem State.setWait_pc (w : Option RegIdx) : (s.setWait w).pc = s.pc := rfl
@[simp] theorem State.setWait_stack (w : Option RegIdx) : (s.setWait w).stack = s.stack := rfl
@[simp] theorem State.setWait_mem (w : Option RegIdx) : (s.setWait w).mem = s.mem := rfl
@[simp] theorem State.setWait_fb (w : Option RegIdx) : (s.setWait w).fb = s.fb := rfl
@[simp] theorem State.setWait_keys (w : Option RegIdx) : (s.setWait w).keys = s.keys := rfl
@[simp] theorem State.setWait_wait (w : Option RegIdx) : (s.setWait w).wait = w := rfl
@[simp] theorem State.setWait_dt (w : Option RegIdx) : (s.setWait w).dt = s.dt := rfl
@[simp] theorem State.setWait_st (w : Option RegIdx) : (s.setWait w).st = s.st := rfl
@[simp] theorem State.setWait_paused (w : Option RegIdx) : (s.setWait w).paused = s.paused := rfl
@[simp] theorem State.setWait_fault (w : Option RegIdx) : (s.setWait w).fault = s.fault := rfl
@[simp] theorem State.setWait_dirty (w : Option RegIdx) : (s.setWait w).dirty = s.dirty := rfl
@[simp] theorem State.setWait_draws (w : Option RegIdx) : (s.setWait w).draws = s.draws := rfl
@[simp] theorem State.setWait_reg (w : Option RegIdx) (j : RegIdx) : (s.setWait w).reg j = s.reg j := rfl

/-! ### setDt -/

@[simp] theorem State.setDt_v (b : Byte) : (s.setDt b).v = s.v := rfl
@[simp] theorem State.setDt_i (b : Byte) : (s.setDt b).i = s.i := rfl
@[simp] theorem State.setDt_pc (b : Byte) : (s.setDt b).pc = s.pc := rfl
@[simp] theorem State.setDt_stack (b : Byte) : (s.setDt b).stack = s.stack := rfl
@[simp] theorem State.setDt_mem (b : Byte) : (s.setDt b).mem = s.mem := rfl
@[simp] theorem State.setDt_fb (b : Byte) : (s.setDt b).fb = s.fb := rfl
@[simp] theorem State.setDt_keys (b : Byte) : (s.setDt b).keys = s.keys := rfl
@[simp] theorem State.setDt_wait (b : Byte) : (s.setDt b).wait = s.wait := rfl
@[simp] theorem State.setDt_dt (b : Byte) : (s.setDt b).dt = b := rfl
@[simp] theorem State.setDt_st (b : Byte) : (s.setDt b).st = s.st := rfl
@[simp] theorem State.setDt_paused (b : Byte) : (s.setDt b).paused = s.paused := rfl
@[simp] theorem State.setDt_fault (b : Byte) : (s.setDt b).fault = s.fault := rfl
@[simp] theorem State.setDt_dirty (b : Byte) : (s.setDt b).dirty = s.dirty := rfl
@[simp] theorem State.setDt_draws (b : Byte) : (s.setDt b).draws = s.draws := rfl
@[simp] theorem State.setDt_reg (b : Byte) (j : RegIdx) : (s.setDt b).reg j = s.reg j := rfl

/-! ### setSt -/

@[simp] theorem State.setSt_v (b : Byte) : (s.setSt b).v = s.v := rfl
@[simp] theorem State.setSt_i (b : Byte) : (s.setSt b).i = s.i := rfl
@[simp] theorem State.setSt_pc (b : Byte) : (s.setSt b).pc = s.pc := rfl
@[simp] theorem State.setSt_stack (b : Byte) : (s.setSt b).stack = s.stack := rfl
@[simp] theorem State.setSt_mem (b : Byte) : (s.setSt b).mem = s.mem := rfl
@[simp] theorem State.setSt_fb (b : Byte) : (s.setSt b).fb = s.fb := rfl
@[simp] theorem State.setSt_keys (b : Byte) : (s.setSt b).keys = s.keys := rfl
@[simp] theorem State.setSt_wait (b : Byte) : (s.setSt b).wait = s.wait := rfl
@[simp] theorem State.setSt_dt (b : Byte) : (s.setSt b).dt = s.dt := rfl
@[simp] theorem State.setSt_st (b : Byte) : (s.setSt b).st = b := rfl
@[simp] theorem State.setSt_paused (b : Byte) : (s.setSt b).paused = s.paused := rfl
@[simp] theorem State.setSt_fault (b : Byte) : (s.setSt b).fault = s.fault := rfl
@[simp] theorem State.setSt_dirty (b : Byte) : (s.setSt b).dirty = s.dirty := rfl
@[simp] theorem State.setSt_draws (b : Byte) : (s.setSt b).draws = s.draws := rfl
@[simp] theorem State.setSt_reg (b : Byte) (j : RegIdx) : (s.setSt b).reg j = s.reg j := rfl

/-! ### setPaused -/

@[simp] theorem State.setPaused_v (b : Bool) : (s.setPaused b).v = s.v := rfl
@[simp] theorem State.setPaused_i (b : Bool) : (s.setPaused b).i = s.i := rfl
@[simp] theorem State.setPaused_pc (b : Bool) : (s.setPaused b).pc = s.pc := rfl
@[simp] theorem State.setPaused_stack (b : Bool) : (s.setPaused b).stack = s.stack := rfl
@[simp] theorem State.setPaused_mem (b : Bool) : (s.setPaused b).mem = s.mem := rfl
@[simp] theorem State.setPaused_fb (b : Bool) : (s.setPaused b).fb = s.fb := rfl
@[simp] theorem State.setPaused_keys (b : Bool) : (s.setPaused b).keys = s.keys := rfl
@[simp] theorem State.setPaused_wait (b : Bool) : (s.setPaused b).wait = s.wait := rfl
@[simp] theorem State.setPaused_dt (b : Bool) : (s.setPaused b).dt = s.dt := rfl
@[simp] theorem State.setPaused_st (b : Bool) : (s.setPaused b).st = s.st := rfl
@[simp] theorem State.setPaused_paused (b : Bool) : (s.setPaused b).paused = b := rfl
@[simp] theorem State.setPaused_fault (b : Bool) : (s.setPaused b).fault = s.fault := rfl
@[simp] theorem State.setPaused_dirty (b : Bool) : (s.setPaused b).dirty = s.dirty := rfl
@[simp] theorem State.setPaused_draws (b : Bool) : (s.setPaused b).draws = s.draws := rfl
@[simp] theorem State.setPaused_reg (b : Bool) (j : RegIdx) : (s.setPaused b).reg j = s.reg j := rfl

/-! ### setFault -/

@[simp] theorem State.setFault_v (r : Option FaultRecord) : (s.setFault r).v = s.v := rfl
@[simp] theorem State.setFault_i (r : Option FaultRecord) : (s.setFault r).i = s.i := rfl
@[simp] theorem State.setFault_pc (r : Option FaultRecord) : (s.setFault r).pc = s.pc := rfl
@[simp] theorem State.setFault_stack (r : Option FaultRecord) : (s.setFault r).stack = s.stack := rfl
@[simp] theorem State.setFault_mem (r : Option FaultRecord) : (s.setFault r).mem = s.mem := rfl
@[simp] theorem State.setFault_fb (r : Option FaultRecord) : (s.setFault r).fb = s.fb := rfl
@[simp] theorem State.setFault_keys (r : Option FaultRecord) : (s.setFault r).keys = s.keys := rfl
@[simp] theorem State.setFault_wait (r : Option FaultRecord) : (s.setFault r).wait = s.wait := rfl
@[simp] theorem State.setFault_dt (r : Option FaultRecord) : (s.setFault r).dt = s.dt := rfl
@[simp] theorem State.setFault_st (r : Option FaultRecord) : (s.setFault r).st = s.st := rfl
@[simp] theorem State.setFault_paused (r : Option FaultRecord) : (s.setFault r).paused = s.paused := rfl
@[simp] theorem State.setFault_fault (r : Option FaultRecord) : (s.setFault r).fault = r := rfl
@[simp] theorem State.setFault_dirty (r : Option FaultRecord) : (s.setFault r).dirty = s.dirty := rfl
@[simp] theorem State.setFault_draws (r : Option FaultRecord) : (s.setFault r).draws = s.draws := rfl
@[simp] theorem State.setFault_reg (r : Option FaultRecord) (j : RegIdx) : (s.setFault r).reg j = s.reg j := rfl

/-! ### setDirty -/

@[simp] theorem State.setDirty_v (b : Bool) : (s.setDirty b).v = s.v := rfl
@[simp] theorem State.setDirty_i (b : Bool) : (s.setDirty b).i = s.i := rfl
@[simp] theorem State.setDirty_pc (b : Bool) : (s.setDirty b).pc = s.pc := rfl
@[simp] theorem State.setDirty_stack (b : Bool) : (s.setDirty b).stack = s.stack := rfl
@[simp] theorem State.setDirty_mem (b : Bool) : (s.setDirty b).mem = s.mem := rfl
@[simp] theorem State.setDirty_fb (b : Bool) : (s.setDirty b).fb = s.fb := rfl
@[simp] theorem State.setDirty_keys (b : Bool) : (s.setDirty b).keys = s.keys := rfl
@[simp] theorem State.setDirty_wait (b : Bool) : (s.setDirty b).wait = s.wait := rfl
@[simp] theorem State.setDirty_dt (b : Bool) : (s.setDirty b).dt = s.dt := rfl
@[simp] theorem State.setDirty_st (b : Bool) : (s.setDirty b).st = s.st := rfl
@[simp] theorem State.setDirty_paused (b : Bool) : (s.setDirty b).paused = s.paused := rfl
@[simp] theorem State.setDirty_fault (b : Bool) : (s.setDirty b).fault = s.fault := rfl
@[simp] theorem State.setDirty_dirty (b : Bool) : (s.setDirty b).dirty = b := rfl
@[simp] theorem State.setDirty_draws (b : Bool) : (s.setDirty b).draws = s.draws := rfl
@[simp] theorem State.setDirty_reg (b : Bool) (j : RegIdx) : (s.setDirty b).reg j = s.reg j := rfl

/-! ### setDraws -/

@[simp] theorem State.setDraws_v (k : Nat) : (s.setDraws k).v = s.v := rfl
@[simp] theorem State.setDraws_i (k : Nat) : (s.setDraws k).i = s.i := rfl
@[simp] theorem State.setDraws_pc (k : Nat) : (s.setDraws k).pc = s.pc := rfl
@[simp] theorem State.setDraws_stack (k : Nat) : (s.setDraws k).stack = s.stack := rfl
@[simp] theorem State.setDraws_mem (k : Nat) : (s.setDraws k).mem = s.mem := rfl
@[simp] theorem State.setDraws_fb (k : Nat) : (s.setDraws k).fb = s.fb := rfl
@[simp] theorem State.setDraws_keys (k : Nat) : (s.setDraws k).keys = s.keys := rfl
@[simp] theorem State.setDraws_wait (k : Nat) : (s.setDraws k).wait = s.wait := rfl
@[simp] theorem State.setDraws_dt (k : Nat) : (s.setDraws k).dt = s.dt := rfl
@[simp] theorem State.setDraws_st (k : Nat) : (s.setDraws k).st = s.st := rfl
@[simp] theorem State.setDraws_paused (k : Nat) : (s.setDraws k).paused = s.paused := rfl
@[simp] theorem State.setDraws_fault (k : Nat) : (s.setDraws k).fault = s.fault := rfl
@[simp] theorem State.setDraws_dirty (k : Nat) : (s.setDraws k).dirty = s.dirty := rfl
@[simp] theorem State.setDraws_draws (k : Nat) : (s.setDraws k).draws = k := rfl
@[simp] theorem State.setDraws_reg (k : Nat) (j : RegIdx) : (s.setDraws k).reg j = s.reg j := rfl

/-! ### setReg -/

@[simp] theorem State.setReg_i (k : RegIdx) (b : Byte) : (s.setReg k b).i = s.i := rfl
@[simp] theorem State.setReg_pc (k : RegIdx) (b : Byte) : (s.setReg k b).pc = s.pc := rfl
@[simp] theorem State.setReg_stack (k : RegIdx) (b : Byte) : (s.setReg k b).stack = s.stack := rfl
@[simp] theorem State.setReg_mem (k : RegIdx) (b : Byte) : (s.setReg k b).mem = s.mem := rfl
@[simp] theorem State.setReg_fb (k : RegIdx) (b : Byte) : (s.setReg k b).fb = s.fb := rfl
@[simp] theorem State.setReg_keys (k : RegIdx) (b : Byte) : (s.setReg k b).keys = s.keys := rfl
@[simp] theorem State.setReg_wait (k : RegIdx) (b : Byte) : (s.setReg k b).wait = s.wait := rfl
@[simp] theorem State.setReg_dt (k : RegIdx) (b : Byte) : (s.setReg k b).dt = s.dt := rfl
@[simp] theorem State.setReg_st (k : RegIdx) (b : Byte) : (s.setReg k b).st = s.st := rfl
@[simp] theorem State.setReg_paused (k : RegIdx) (b : Byte) : (s.setReg k b).paused = s.paused := rfl
@[simp] theorem State.setReg_fault (k : RegIdx) (b : Byte) : (s.setReg k b).fault = s.fault := rfl
@[simp] theorem State.setReg_dirty (k : RegIdx) (b : Byte) : (s.setReg k b).dirty = s.dirty := rfl
@[simp] theorem State.setReg_draws (k : RegIdx) (b : Byte) : (s.setReg k b).draws = s.draws := rfl

/-- A register read after a register write (R15). -/
theorem State.reg_setReg (k j : RegIdx) (b : Byte) : (s.setReg k b).reg j = if j = k then b else s.reg j := by
  simp only [State.reg, State.setReg, State.setV, Vector.getElem_set, Fin.ext_iff, eq_comm]

@[simp] theorem State.reg_setReg_same (k : RegIdx) (b : Byte) : (s.setReg k b).reg k = b := by
  simp [State.reg_setReg]

theorem State.reg_setReg_ne (k j : RegIdx) (b : Byte) (h : j ≠ k) : (s.setReg k b).reg j = s.reg j := by
  simp [State.reg_setReg, h]

/-! ### setFlag -/

@[simp] theorem State.setFlag_i (b : Bool) : (s.setFlag b).i = s.i := rfl
@[simp] theorem State.setFlag_pc (b : Bool) : (s.setFlag b).pc = s.pc := rfl
@[simp] theorem State.setFlag_stack (b : Bool) : (s.setFlag b).stack = s.stack := rfl
@[simp] theorem State.setFlag_mem (b : Bool) : (s.setFlag b).mem = s.mem := rfl
@[simp] theorem State.setFlag_fb (b : Bool) : (s.setFlag b).fb = s.fb := rfl
@[simp] theorem State.setFlag_keys (b : Bool) : (s.setFlag b).keys = s.keys := rfl
@[simp] theorem State.setFlag_wait (b : Bool) : (s.setFlag b).wait = s.wait := rfl
@[simp] theorem State.setFlag_dt (b : Bool) : (s.setFlag b).dt = s.dt := rfl
@[simp] theorem State.setFlag_st (b : Bool) : (s.setFlag b).st = s.st := rfl
@[simp] theorem State.setFlag_paused (b : Bool) : (s.setFlag b).paused = s.paused := rfl
@[simp] theorem State.setFlag_fault (b : Bool) : (s.setFlag b).fault = s.fault := rfl
@[simp] theorem State.setFlag_dirty (b : Bool) : (s.setFlag b).dirty = s.dirty := rfl
@[simp] theorem State.setFlag_draws (b : Bool) : (s.setFlag b).draws = s.draws := rfl

/-- A register read after the flag is written (R16). -/
theorem State.reg_setFlag (j : RegIdx) (b : Bool) : (s.setFlag b).reg j = if j = vf then flagByte b else s.reg j :=
  State.reg_setReg s vf j _

/-! ### advance -/

@[simp] theorem State.advance_v  : (s.advance).v = s.v := rfl
@[simp] theorem State.advance_i  : (s.advance).i = s.i := rfl
@[simp] theorem State.advance_stack  : (s.advance).stack = s.stack := rfl
@[simp] theorem State.advance_mem  : (s.advance).mem = s.mem := rfl
@[simp] theorem State.advance_fb  : (s.advance).fb = s.fb := rfl
@[simp] theorem State.advance_keys  : (s.advance).keys = s.keys := rfl
@[simp] theorem State.advance_wait  : (s.advance).wait = s.wait := rfl
@[simp] theorem State.advance_dt  : (s.advance).dt = s.dt := rfl
@[simp] theorem State.advance_st  : (s.advance).st = s.st := rfl
@[simp] theorem State.advance_paused  : (s.advance).paused = s.paused := rfl
@[simp] theorem State.advance_fault  : (s.advance).fault = s.fault := rfl
@[simp] theorem State.advance_dirty  : (s.advance).dirty = s.dirty := rfl
@[simp] theorem State.advance_draws  : (s.advance).draws = s.draws := rfl

@[simp] theorem State.advance_pc : s.advance.pc = s.pc + 2 := rfl
@[simp] theorem State.advance_reg (j : RegIdx) : s.advance.reg j = s.reg j := rfl

/-! ### skipIf -/

@[simp] theorem State.skipIf_v (c : Bool) : (s.skipIf c).v = s.v := by cases c <;> rfl
@[simp] theorem State.skipIf_i (c : Bool) : (s.skipIf c).i = s.i := by cases c <;> rfl
@[simp] theorem State.skipIf_stack (c : Bool) : (s.skipIf c).stack = s.stack := by cases c <;> rfl
@[simp] theorem State.skipIf_mem (c : Bool) : (s.skipIf c).mem = s.mem := by cases c <;> rfl
@[simp] theorem State.skipIf_fb (c : Bool) : (s.skipIf c).fb = s.fb := by cases c <;> rfl
@[simp] theorem State.skipIf_keys (c : Bool) : (s.skipIf c).keys = s.keys := by cases c <;> rfl
@[simp] theorem State.skipIf_wait (c : Bool) : (s.skipIf c).wait = s.wait := by cases c <;> rfl
@[simp] theorem State.skipIf_dt (c : Bool) : (s.skipIf c).dt = s.dt := by cases c <;> rfl
@[simp] theorem State.skipIf_st (c : Bool) : (s.skipIf c).st = s.st := by cases c <;> rfl
@[simp] theorem State.skipIf_paused (c : Bool) : (s.skipIf c).paused = s.paused := by cases c <;> rfl
@[simp] theorem State.skipIf_fault (c : Bool) : (s.skipIf c).fault = s.fault := by cases c <;> rfl
@[simp] theorem State.skipIf_dirty (c : Bool) : (s.skipIf c).dirty = s.dirty := by cases c <;> rfl
@[simp] theorem State.skipIf_draws (c : Bool) : (s.skipIf c).draws = s.draws := by cases c <;> rfl

@[simp] theorem State.skipIf_pc (c : Bool) : (s.skipIf c).pc = if c then s.pc + 2 else s.pc := by cases c <;> rfl
@[simp] theorem State.skipIf_reg (c : Bool) (j : RegIdx) : (s.skipIf c).reg j = s.reg j := by cases c <;> rfl

/-! ### resultThenFlag -/

@[simp] theorem State.resultThenFlag_i (x : RegIdx) (r : Byte) (b : Bool) : (s.resultThenFlag x r b).i = s.i := rfl
@[simp] theorem State.resultThenFlag_pc (x : RegIdx) (r : Byte) (b : Bool) : (s.resultThenFlag x r b).pc = s.pc := rfl
@[simp] theorem State.resultThenFlag_stack (x : RegIdx) (r : Byte) (b : Bool) : (s.resultThenFlag x r b).stack = s.stack := rfl
@[simp] theorem State.resultThenFlag_mem (x : RegIdx) (r : Byte) (b : Bool) : (s.resultThenFlag x r b).mem = s.mem := rfl
@[simp] theorem State.resultThenFlag_fb (x : RegIdx) (r : Byte) (b : Bool) : (s.resultThenFlag x r b).fb = s.fb := rfl
@[simp] theorem State.resultThenFlag_keys (x : RegIdx) (r : Byte) (b : Bool) : (s.resultThenFlag x r b).keys = s.keys := rfl
@[simp] theorem State.resultThenFlag_wait (x : RegIdx) (r : Byte) (b : Bool) : (s.resultThenFlag x r b).wait = s.wait := rfl
@[simp] theorem State.resultThenFlag_dt (x : RegIdx) (r : Byte) (b : Bool) : (s.resultThenFlag x r b).dt = s.dt := rfl
@[simp] theorem State.resultThenFlag_st (x : RegIdx) (r : Byte) (b : Bool) : (s.resultThenFlag x r b).st = s.st := rfl
@[simp] theorem State.resultThenFlag_paused (x : RegIdx) (r : Byte) (b : Bool) : (s.resultThenFlag x r b).paused = s.paused := rfl
@[simp] theorem State.resultThenFlag_fault (x : RegIdx) (r : Byte) (b : Bool) : (s.resultThenFlag x r b).fault = s.fault := rfl
@[simp] theorem State.resultThenFlag_dirty (x : RegIdx) (r : Byte) (b : Bool) : (s.resultThenFlag x r b).dirty = s.dirty := rfl
@[simp] theorem State.resultThenFlag_draws (x : RegIdx) (r : Byte) (b : Bool) : (s.resultThenFlag x r b).draws = s.draws := rfl

/-! ### flagThenResult -/

@[simp] theorem State.flagThenResult_i (x : RegIdx) (r : Byte) (b : Bool) : (s.flagThenResult x r b).i = s.i := rfl
@[simp] theorem State.flagThenResult_pc (x : RegIdx) (r : Byte) (b : Bool) : (s.flagThenResult x r b).pc = s.pc := rfl
@[simp] theorem State.flagThenResult_stack (x : RegIdx) (r : Byte) (b : Bool) : (s.flagThenResult x r b).stack = s.stack := rfl
@[simp] theorem State.flagThenResult_mem (x : RegIdx) (r : Byte) (b : Bool) : (s.flagThenResult x r b).mem = s.mem := rfl
@[simp] theorem State.flagThenResult_fb (x : RegIdx) (r : Byte) (b : Bool) : (s.flagThenResult x r b).fb = s.fb := rfl
@[simp] theorem State.flagThenResult_keys (x : RegIdx) (r : Byte) (b : Bool) : (s.flagThenResult x r b).keys = s.keys := rfl
@[simp] theorem State.flagThenResult_wait (x : RegIdx) (r : Byte) (b : Bool) : (s.flagThenResult x r b).wait = s.wait := rfl
@[simp] theorem State.flagThenResult_dt (x : RegIdx) (r : Byte) (b : Bool) : (s.flagThenResult x r b).dt = s.dt := rfl
@[simp] theorem State.flagThenResult_st (x : RegIdx) (r : Byte) (b : Bool) : (s.flagThenResult x r b).st = s.st := rfl
@[simp] theorem State.flagThenResult_paused (x : RegIdx) (r : Byte) (b : Bool) : (s.flagThenResult x r b).paused = s.paused := rfl
@[simp] theorem State.flagThenResult_fault (x : RegIdx) (r : Byte) (b : Bool) : (s.flagThenResult x r b).fault = s.fault := rfl
@[simp] theorem State.flagThenResult_dirty (x : RegIdx) (r : Byte) (b : Bool) : (s.flagThenResult x r b).dirty = s.dirty := rfl
@[simp] theorem State.flagThenResult_draws (x : RegIdx) (r : Byte) (b : Bool) : (s.flagThenResult x r b).draws = s.draws := rfl

/-- Result first, flag second: for x = F the flag stays (R87). -/
theorem State.reg_resultThenFlag (x j : RegIdx) (r : Byte) (b : Bool) :
    (s.resultThenFlag x r b).reg j = if j = vf then flagByte b else if j = x then r else s.reg j := by
  simp only [State.resultThenFlag, State.reg_setFlag, State.reg_setReg]

/-- Flag first, result second: for x = F the result stays (R87). -/
theorem State.reg_flagThenResult (x j : RegIdx) (r : Byte) (b : Bool) :
    (s.flagThenResult x r b).reg j = if j = x then r else if j = vf then flagByte b else s.reg j := by
  simp only [State.flagThenResult, State.reg_setFlag, State.reg_setReg]

/-! ### Fault entry -/

@[simp] theorem takeFault_v (w : Option Word) (e : Trap) : (takeFault s w e).v = s.v := rfl
@[simp] theorem takeFault_i (w : Option Word) (e : Trap) : (takeFault s w e).i = s.i := rfl
@[simp] theorem takeFault_pc (w : Option Word) (e : Trap) : (takeFault s w e).pc = s.pc := rfl
@[simp] theorem takeFault_stack (w : Option Word) (e : Trap) : (takeFault s w e).stack = s.stack := rfl
@[simp] theorem takeFault_mem (w : Option Word) (e : Trap) : (takeFault s w e).mem = s.mem := rfl
@[simp] theorem takeFault_fb (w : Option Word) (e : Trap) : (takeFault s w e).fb = s.fb := rfl
@[simp] theorem takeFault_keys (w : Option Word) (e : Trap) : (takeFault s w e).keys = s.keys := rfl
@[simp] theorem takeFault_wait (w : Option Word) (e : Trap) : (takeFault s w e).wait = s.wait := rfl
@[simp] theorem takeFault_dt (w : Option Word) (e : Trap) : (takeFault s w e).dt = s.dt := rfl
@[simp] theorem takeFault_st (w : Option Word) (e : Trap) : (takeFault s w e).st = s.st := rfl
@[simp] theorem takeFault_paused (w : Option Word) (e : Trap) : (takeFault s w e).paused = s.paused := rfl
@[simp] theorem takeFault_dirty (w : Option Word) (e : Trap) : (takeFault s w e).dirty = s.dirty := rfl
@[simp] theorem takeFault_draws (w : Option Word) (e : Trap) : (takeFault s w e).draws = s.draws := rfl
@[simp] theorem takeFault_fault (w : Option Word) (e : Trap) :
    (takeFault s w e).fault = some ⟨e.kind, s.pc, w, e.addr⟩ := rfl
@[simp] theorem takeFault_reg (w : Option Word) (e : Trap) (j : RegIdx) : (takeFault s w e).reg j = s.reg j := rfl

/-! ### construct (R28) -/

@[simp] theorem State.construct_v (font : Font) : (State.construct font).v = Vector.replicate 16 0 := rfl
@[simp] theorem State.construct_i (font : Font) : (State.construct font).i = 0 := rfl
@[simp] theorem State.construct_pc (font : Font) : (State.construct font).pc = 0x200 := rfl
@[simp] theorem State.construct_stack (font : Font) : (State.construct font).stack = [] := rfl
@[simp] theorem State.construct_mem (font : Font) : (State.construct font).mem = ⟨font, []⟩ := rfl
@[simp] theorem State.construct_fb (font : Font) :
    (State.construct font).fb = Vector.replicate Config.fbRows (Vector.replicate Config.fbCols false) := rfl
@[simp] theorem State.construct_keys (font : Font) : (State.construct font).keys = Vector.replicate 16 false := rfl
@[simp] theorem State.construct_wait (font : Font) : (State.construct font).wait = none := rfl
@[simp] theorem State.construct_dt (font : Font) : (State.construct font).dt = 0 := rfl
@[simp] theorem State.construct_st (font : Font) : (State.construct font).st = 0 := rfl
@[simp] theorem State.construct_paused (font : Font) : (State.construct font).paused = false := rfl
@[simp] theorem State.construct_fault (font : Font) : (State.construct font).fault = none := rfl
@[simp] theorem State.construct_dirty (font : Font) : (State.construct font).dirty = true := rfl
@[simp] theorem State.construct_draws (font : Font) : (State.construct font).draws = 0 := rfl
@[simp] theorem State.construct_reg (font : Font) (j : RegIdx) : (State.construct font).reg j = 0 := by
  simp [State.reg]

/-- Two register files that agree at every register are equal. -/
theorem regs_ext {a b : Vector Byte 16} (h : ∀ j : RegIdx, a[j.val] = b[j.val]) : a = b :=
  Vector.ext fun i hi => h ⟨i, hi⟩

end Sys2Proof.Machine
end

