-- ==== Sys2Proof/Laws/Ops.lean ====
section
/-! SUPPORT. What each shared operation can do, said once: the call stack, the end of a step, fetch, the faulting
instructions and one whole step. -/

namespace Sys2Proof.Machine

/-! ### Run state (R25) -/

theorem State.isRunning_iff (s : State) : s.isRunning = true ↔ s.paused = false ∧ s.fault = none ∧ s.wait = none := by
  simp only [State.isRunning, State.runState, beq_iff_eq]
  cases hp : s.paused <;> cases hf : s.fault <;> cases hw : s.wait <;> simp

/-! ### Call stack (R19) -/

theorem push_eq (s : State) (w : Word) :
    push s w = if s.stack.length < Config.stackCap then .ok (s.setStack (s.stack ++ [w]))
      else .error ⟨.stackOverflow, none⟩ := by
  simp only [push]
  by_cases h : s.stack.length < Config.stackCap
  · rw [if_pos h, if_neg (by omega)]
  · rw [if_neg h, if_pos (by omega)]

theorem pop_append (s : State) (l : List Word) (w : Word) (h : s.stack = l ++ [w]) :
    pop s = .ok (w, s.setStack l) := by
  simp [pop, h]

theorem pop_nil (s : State) (h : s.stack = []) : pop s = .error ⟨.stackUnderflow, none⟩ := by
  simp [pop, h]

/-! ### The end of a step (R58) -/

@[simp] theorem endStep_ok (s t : State) (w : Option Word) : endStep s w (.ok t) = t := rfl
@[simp] theorem endStep_error (s : State) (w : Option Word) (e : Trap) : endStep s w (.error e) = takeFault s w e := rfl
@[simp] theorem complete_ok (i : Instr) (s t : State) : complete i s (.ok t) = .next t := rfl
@[simp] theorem complete_error (i : Instr) (s : State) (e : Trap) :
    complete i s (.error e) = .next (takeFault s (some (encode i)) e) := rfl

/-! ### Fetch (R54) -/

theorem State.fetch_eq (s : State) :
    s.fetch = if s.pc.toNat + 1 < Config.memSize
      then .ok (wordOfBytes (s.mem.read s.pc.toNat) (s.mem.read (s.pc.toNat + 1)))
      else .error (outOfBounds (max s.pc.toNat Config.memSize)) :=
  memReadWord_eq s.mem s.pc.toNat

/-! ### The instructions that can fault -/

theorem execRet_append (s : State) (l : List Word) (w : Word) (h : s.stack = l ++ [w]) :
    execRet s = .next ((s.advance.setStack l).setPc w) := by
  simp only [execRet, pop_append s.advance l w h, complete_ok]

theorem execRet_nil (s : State) (h : s.stack = []) :
    execRet s = .next (takeFault s (some (encode .ret)) ⟨.stackUnderflow, none⟩) := by
  simp only [execRet, pop_nil s.advance h, complete_error]

theorem execCall_eq (nnn : Addr12) (s : State) :
    execCall nnn s = if s.stack.length < Config.stackCap
      then .next ((s.advance.setStack (s.stack ++ [s.pc + 2])).setPc (zext nnn))
      else .next (takeFault s (some (encode (.call nnn))) ⟨.stackOverflow, none⟩) := by
  simp only [execCall, push_eq, State.advance_stack, State.advance_pc]
  by_cases h : s.stack.length < Config.stackCap <;> simp only [h, if_true, if_false, complete_ok, complete_error]

theorem execDrw_eq (x y : RegIdx) (n : Nibble) (s : State) :
    execDrw x y n s = if n.toNat = 0 ∨ s.base + n.toNat ≤ Config.memSize
      then .next (drawRows s x y (bytesAt s.mem s.base n.toNat))
      else .next (takeFault s (some (encode (.drw x y n))) (outOfBounds (max s.base Config.memSize))) := by
  simp only [execDrw, readBytes_eq]
  by_cases h : n.toNat = 0 ∨ s.base + n.toNat ≤ Config.memSize <;>
    simp only [h, if_true, if_false, complete_ok, complete_error]

theorem storeAtI_eq (i : Instr) (bytes : List Byte) (s : State) :
    storeAtI i bytes s = if bytes = [] ∨ s.base + bytes.length ≤ Config.memSize
      then .next (s.advance.setMem (s.mem.writeAll s.base bytes))
      else .next (takeFault s (some (encode i)) (outOfBounds (max s.base Config.memSize))) := by
  simp only [storeAtI, writeBytes_eq]
  by_cases h : bytes = [] ∨ s.base + bytes.length ≤ Config.memSize <;>
    simp only [h, if_true, if_false, complete_ok, complete_error]

theorem execLdRegs_eq (x : RegIdx) (s : State) :
    execLdRegs x s = if s.base + (x.val + 1) ≤ Config.memSize
      then .next (s.advance.setV (loadRegs s.v 0 (bytesAt s.mem s.base (x.val + 1))))
      else .next (takeFault s (some (encode (.ldRegs x))) (outOfBounds (max s.base Config.memSize))) := by
  simp only [execLdRegs, readBytes_eq, Nat.add_eq_zero_iff, one_ne_zero, and_false, false_or]
  by_cases h : s.base + (x.val + 1) ≤ Config.memSize <;> simp only [h, if_true, if_false, complete_ok, complete_error]

/-! ### What a completed `Dxyn` leaves and writes (R64) -/

@[simp] theorem drawRows_i (s : State) (x y : RegIdx) (bs : List Byte) : (drawRows s x y bs).i = s.i := rfl
@[simp] theorem drawRows_stack (s : State) (x y : RegIdx) (bs : List Byte) : (drawRows s x y bs).stack = s.stack := rfl
@[simp] theorem drawRows_mem (s : State) (x y : RegIdx) (bs : List Byte) : (drawRows s x y bs).mem = s.mem := rfl
@[simp] theorem drawRows_keys (s : State) (x y : RegIdx) (bs : List Byte) : (drawRows s x y bs).keys = s.keys := rfl
@[simp] theorem drawRows_wait (s : State) (x y : RegIdx) (bs : List Byte) : (drawRows s x y bs).wait = s.wait := rfl
@[simp] theorem drawRows_dt (s : State) (x y : RegIdx) (bs : List Byte) : (drawRows s x y bs).dt = s.dt := rfl
@[simp] theorem drawRows_st (s : State) (x y : RegIdx) (bs : List Byte) : (drawRows s x y bs).st = s.st := rfl
@[simp] theorem drawRows_paused (s : State) (x y : RegIdx) (bs : List Byte) : (drawRows s x y bs).paused = s.paused := rfl
@[simp] theorem drawRows_fault (s : State) (x y : RegIdx) (bs : List Byte) : (drawRows s x y bs).fault = s.fault := rfl
@[simp] theorem drawRows_draws (s : State) (x y : RegIdx) (bs : List Byte) : (drawRows s x y bs).draws = s.draws := rfl
@[simp] theorem drawRows_pc (s : State) (x y : RegIdx) (bs : List Byte) : (drawRows s x y bs).pc = s.pc + 2 := rfl
@[simp] theorem drawRows_dirty (s : State) (x y : RegIdx) (bs : List Byte) : (drawRows s x y bs).dirty = true := rfl
@[simp] theorem drawRows_fb (s : State) (x y : RegIdx) (bs : List Byte) :
    (drawRows s x y bs).fb = (drawSprite s.fb (s.reg x).toNat (s.reg y).toNat bs).fb := rfl
theorem drawRows_reg (s : State) (x y : RegIdx) (bs : List Byte) (j : RegIdx) :
    (drawRows s x y bs).reg j = if j = vf
      then flagByte (drawSprite s.fb (s.reg x).toNat (s.reg y).toNat bs).collision else s.reg j :=
  State.reg_setFlag _ _ _

/-! ### One step -/

/-- What a step can do: idle, a fetch fault, an unmapped word, or the decoded instruction (R53 to R57). -/
theorem step_cases {s t : State} (h : step s = .next t) :
    (s.isRunning = false ∧ t = s) ∨
    (s.isRunning = true ∧ ∃ e, s.fetch = .error e ∧ t = takeFault s none e) ∨
    (s.isRunning = true ∧ ∃ w u, s.fetch = .ok w ∧ decode w = .error u ∧ t = s.advance) ∨
    (s.isRunning = true ∧ ∃ w i, s.fetch = .ok w ∧ decode w = .ok i ∧ exec i s = .next t) := by
  simp only [step, execFetchFault, execUnmapped, execIdle] at h
  split at h
  · rename_i hr
    split at h
    · rename_i e he
      exact .inr (.inl ⟨hr, e, he, by simpa using h.symm⟩)
    · rename_i w hw
      split at h
      · rename_i i hi
        exact .inr (.inr (.inr ⟨hr, w, i, hw, hi, h⟩))
      · rename_i u hu
        exact .inr (.inr (.inl ⟨hr, w, u, hw, hu, by simpa using h.symm⟩))
  · rename_i hr
    exact .inl ⟨by simpa using hr, by simpa using h.symm⟩

end Sys2Proof.Machine
end

