-- ==== Sys2Proof/Laws/PerInstr.lean ====
section
/-! SUPPORT. Per-instruction statements: the family Encodes says that an instruction's word matches its own row of the
opcode map (spec/30_encoding.md R46) and that its operands lie in their fields' ranges (R44, R45). -/

namespace Sys2Proof.Laws.Encodes

/-- The instruction is well formed and its word matches its row: `(w & mask) = match` (R46). -/
def Statement (i : Instr) : Prop := i.wellFormed = true ∧ encode i &&& i.row.mask = i.row.pattern

theorem cls : Statement .cls := ⟨rfl, by decide⟩

theorem ret : Statement .ret := ⟨rfl, by decide⟩

theorem jp (nnn : Addr12) : Statement (.jp nnn) := 
  ⟨decide_eq_true nnn.isLt, wordNNN_and_mask _ nnn⟩

theorem call (nnn : Addr12) : Statement (.call nnn) := 
  ⟨decide_eq_true nnn.isLt, wordNNN_and_mask _ nnn⟩

theorem seImm (x : RegIdx) (nn : Byte) : Statement (.seImm x nn) := 
  ⟨by simp [Instr.wellFormed, regInRange, nnInRange, nn.isLt], wordXNN_and_maskOp _ x nn⟩

theorem sneImm (x : RegIdx) (nn : Byte) : Statement (.sneImm x nn) := 
  ⟨by simp [Instr.wellFormed, regInRange, nnInRange, nn.isLt], wordXNN_and_maskOp _ x nn⟩

theorem seReg (x y : RegIdx) : Statement (.seReg x y) := 
  ⟨by simp [Instr.wellFormed, regInRange], wordXYN_and_mask _ _ x y⟩

theorem ldImm (x : RegIdx) (nn : Byte) : Statement (.ldImm x nn) := 
  ⟨by simp [Instr.wellFormed, regInRange, nnInRange, nn.isLt], wordXNN_and_maskOp _ x nn⟩

theorem addImm (x : RegIdx) (nn : Byte) : Statement (.addImm x nn) := 
  ⟨by simp [Instr.wellFormed, regInRange, nnInRange, nn.isLt], wordXNN_and_maskOp _ x nn⟩

theorem ldReg (x y : RegIdx) : Statement (.ldReg x y) := 
  ⟨by simp [Instr.wellFormed, regInRange], wordXYN_and_mask _ _ x y⟩

theorem orReg (x y : RegIdx) : Statement (.orReg x y) := 
  ⟨by simp [Instr.wellFormed, regInRange], wordXYN_and_mask _ _ x y⟩

theorem andReg (x y : RegIdx) : Statement (.andReg x y) := 
  ⟨by simp [Instr.wellFormed, regInRange], wordXYN_and_mask _ _ x y⟩

theorem xorReg (x y : RegIdx) : Statement (.xorReg x y) := 
  ⟨by simp [Instr.wellFormed, regInRange], wordXYN_and_mask _ _ x y⟩

theorem addReg (x y : RegIdx) : Statement (.addReg x y) := 
  ⟨by simp [Instr.wellFormed, regInRange], wordXYN_and_mask _ _ x y⟩

theorem subReg (x y : RegIdx) : Statement (.subReg x y) := 
  ⟨by simp [Instr.wellFormed, regInRange], wordXYN_and_mask _ _ x y⟩

theorem shrReg (x y : RegIdx) : Statement (.shrReg x y) := 
  ⟨by simp [Instr.wellFormed, regInRange], wordXYN_and_mask _ _ x y⟩

theorem subnReg (x y : RegIdx) : Statement (.subnReg x y) := 
  ⟨by simp [Instr.wellFormed, regInRange], wordXYN_and_mask _ _ x y⟩

theorem shlReg (x y : RegIdx) : Statement (.shlReg x y) := 
  ⟨by simp [Instr.wellFormed, regInRange], wordXYN_and_mask _ _ x y⟩

theorem sneReg (x y : RegIdx) : Statement (.sneReg x y) := 
  ⟨by simp [Instr.wellFormed, regInRange], wordXYN_and_mask _ _ x y⟩

theorem ldI (nnn : Addr12) : Statement (.ldI nnn) := 
  ⟨decide_eq_true nnn.isLt, wordNNN_and_mask _ nnn⟩

theorem jpV0 (nnn : Addr12) : Statement (.jpV0 nnn) := 
  ⟨decide_eq_true nnn.isLt, wordNNN_and_mask _ nnn⟩

theorem rnd (x : RegIdx) (nn : Byte) : Statement (.rnd x nn) := 
  ⟨by simp [Instr.wellFormed, regInRange, nnInRange, nn.isLt], wordXNN_and_maskOp _ x nn⟩

theorem drw (x y : RegIdx) (n : Nibble) : Statement (.drw x y n) := 
  ⟨by simp [Instr.wellFormed, regInRange, nInRange, n.isLt], wordXYN_and_maskOp _ n x y⟩

theorem skp (x : RegIdx) : Statement (.skp x) := 
  ⟨by simp [Instr.wellFormed, regInRange], wordXNN_and_mask _ x _⟩

theorem sknp (x : RegIdx) : Statement (.sknp x) := 
  ⟨by simp [Instr.wellFormed, regInRange], wordXNN_and_mask _ x _⟩

theorem ldVxDt (x : RegIdx) : Statement (.ldVxDt x) := 
  ⟨by simp [Instr.wellFormed, regInRange], wordXNN_and_mask _ x _⟩

theorem ldVxK (x : RegIdx) : Statement (.ldVxK x) := 
  ⟨by simp [Instr.wellFormed, regInRange], wordXNN_and_mask _ x _⟩

theorem ldDtVx (x : RegIdx) : Statement (.ldDtVx x) := 
  ⟨by simp [Instr.wellFormed, regInRange], wordXNN_and_mask _ x _⟩

theorem ldStVx (x : RegIdx) : Statement (.ldStVx x) := 
  ⟨by simp [Instr.wellFormed, regInRange], wordXNN_and_mask _ x _⟩

theorem addI (x : RegIdx) : Statement (.addI x) := 
  ⟨by simp [Instr.wellFormed, regInRange], wordXNN_and_mask _ x _⟩

theorem ldF (x : RegIdx) : Statement (.ldF x) := 
  ⟨by simp [Instr.wellFormed, regInRange], wordXNN_and_mask _ x _⟩

theorem ldB (x : RegIdx) : Statement (.ldB x) := 
  ⟨by simp [Instr.wellFormed, regInRange], wordXNN_and_mask _ x _⟩

theorem stRegs (x : RegIdx) : Statement (.stRegs x) := 
  ⟨by simp [Instr.wellFormed, regInRange], wordXNN_and_mask _ x _⟩

theorem ldRegs (x : RegIdx) : Statement (.ldRegs x) := 
  ⟨by simp [Instr.wellFormed, regInRange], wordXNN_and_mask _ x _⟩

end Sys2Proof.Laws.Encodes
end

