-- ==== Sys2Proof/Tests/Slice0.lean ====
section
/-! SUPPORT. Tests: each expected value is a vector of spec/95_test_vectors.md (its id in the test's comment), a worked
example of the rule named, or worked out by hand from that rule. At the end a witness for every statement with
hypotheses. -/

namespace Sys2Proof.Tests

open Sys2Proof Sys2Proof.Machine

/-! ### Ill-formed terms, one for each check -/

/-- A memory of a machine with the default font and these cells. -/
def cellsOver (cells : Cells) : Memory := ⟨defaultFont, cells⟩

/-- No register V16 (R44). -/
theorem test_regInRange_refuses_16 : regInRange 16 = false := by decide
/-- No byte 256 (R45). -/
theorem test_nnInRange_refuses_256 : nnInRange 256 = false := by decide
/-- No 12-bit address 0x1000 (R45). -/
theorem test_nnnInRange_refuses_4096 : nnnInRange 4096 = false := by decide
/-- No count 16 (R45). -/
theorem test_nInRange_refuses_16 : nInRange 16 = false := by decide
/-- The largest operands pass (R44). -/
theorem test_wellFormed_accepts_largest : (Instr.drw 0xF 0xF 0xF).wellFormed = true ∧ (Instr.jp 0xFFF).wellFormed = true := by
  decide
/-- Key 16 is outside the host's duty (R117). -/
theorem test_transaction_refuses_key16 : (Transaction.setKey 16 true).wellFormed = false := by decide
/-- A turbo speed of 0 is outside the host's duty (R125). -/
theorem test_transaction_refuses_speed0 : (Transaction.setTurboSpeed 0).wellFormed = false := by decide
/-- Falling addresses are not canonical (log 17). -/
theorem test_memory_refuses_falling : (cellsOver [(0x301, 1), (0x300, 1)]).wf = false := by decide
/-- A repeated address is not canonical (log 17). -/
theorem test_memory_refuses_repeated : (cellsOver [(0x300, 1), (0x300, 2)]).wf = false := by decide
/-- An entry equal to the reset contents is not canonical (log 17). -/
theorem test_memory_refuses_default : (cellsOver [(0x300, 0)]).wf = false ∧ (cellsOver [(0x000, 0xF0)]).wf = false := by decide
/-- No address 0x1000 (R30). -/
theorem test_memory_refuses_outside : (cellsOver [(0x1000, 1)]).wf = false := by decide
/-- Writing the reset contents back removes the entry (log 17). -/
theorem test_memory_write_default_removes : ((cellsOver []).write 0x300 7).write 0x300 0 = cellsOver [] := by decide

/-! ### Decoding: a word of each row, written from its pattern in R46, and its encoding -/

theorem test_decode_cls : decode 0x00E0 = .ok (.cls) ∧ encode (.cls) = 0x00E0 := by decide
theorem test_decode_ret : decode 0x00EE = .ok (.ret) ∧ encode (.ret) = 0x00EE := by decide
theorem test_decode_jp : decode 0x1204 = .ok (.jp 0x204) ∧ encode (.jp 0x204) = 0x1204 := by decide
theorem test_decode_call : decode 0x2300 = .ok (.call 0x300) ∧ encode (.call 0x300) = 0x2300 := by decide
theorem test_decode_seImm : decode 0x3100 = .ok (.seImm 1 0x00) ∧ encode (.seImm 1 0x00) = 0x3100 := by decide
theorem test_decode_sneImm : decode 0x42FF = .ok (.sneImm 2 0xFF) ∧ encode (.sneImm 2 0xFF) = 0x42FF := by decide
theorem test_decode_seReg : decode 0x5340 = .ok (.seReg 3 4) ∧ encode (.seReg 3 4) = 0x5340 := by decide
theorem test_decode_ldImm : decode 0x6005 = .ok (.ldImm 0 0x05) ∧ encode (.ldImm 0 0x05) = 0x6005 := by decide
theorem test_decode_addImm : decode 0x7003 = .ok (.addImm 0 0x03) ∧ encode (.addImm 0 0x03) = 0x7003 := by decide
theorem test_decode_ldReg : decode 0x8010 = .ok (.ldReg 0 1) ∧ encode (.ldReg 0 1) = 0x8010 := by decide
theorem test_decode_orReg : decode 0x8011 = .ok (.orReg 0 1) ∧ encode (.orReg 0 1) = 0x8011 := by decide
theorem test_decode_andReg : decode 0x8012 = .ok (.andReg 0 1) ∧ encode (.andReg 0 1) = 0x8012 := by decide
theorem test_decode_xorReg : decode 0x8013 = .ok (.xorReg 0 1) ∧ encode (.xorReg 0 1) = 0x8013 := by decide
theorem test_decode_addReg : decode 0x8014 = .ok (.addReg 0 1) ∧ encode (.addReg 0 1) = 0x8014 := by decide
theorem test_decode_subReg : decode 0x8015 = .ok (.subReg 0 1) ∧ encode (.subReg 0 1) = 0x8015 := by decide
theorem test_decode_shrReg : decode 0x8F16 = .ok (.shrReg 0xF 1) ∧ encode (.shrReg 0xF 1) = 0x8F16 := by decide
theorem test_decode_subnReg : decode 0x8F17 = .ok (.subnReg 0xF 1) ∧ encode (.subnReg 0xF 1) = 0x8F17 := by decide
theorem test_decode_shlReg : decode 0x8F1E = .ok (.shlReg 0xF 1) ∧ encode (.shlReg 0xF 1) = 0x8F1E := by decide
theorem test_decode_sneReg : decode 0x9340 = .ok (.sneReg 3 4) ∧ encode (.sneReg 3 4) = 0x9340 := by decide
theorem test_decode_ldI : decode 0xA300 = .ok (.ldI 0x300) ∧ encode (.ldI 0x300) = 0xA300 := by decide
theorem test_decode_jpV0 : decode 0xBFFF = .ok (.jpV0 0xFFF) ∧ encode (.jpV0 0xFFF) = 0xBFFF := by decide
theorem test_decode_rnd : decode 0xC00F = .ok (.rnd 0 0x0F) ∧ encode (.rnd 0 0x0F) = 0xC00F := by decide
theorem test_decode_drw : decode 0xD125 = .ok (.drw 1 2 5) ∧ encode (.drw 1 2 5) = 0xD125 := by decide
theorem test_decode_skp : decode 0xE59E = .ok (.skp 5) ∧ encode (.skp 5) = 0xE59E := by decide
theorem test_decode_sknp : decode 0xE5A1 = .ok (.sknp 5) ∧ encode (.sknp 5) = 0xE5A1 := by decide
theorem test_decode_ldVxDt : decode 0xF107 = .ok (.ldVxDt 1) ∧ encode (.ldVxDt 1) = 0xF107 := by decide
theorem test_decode_ldVxK : decode 0xF30A = .ok (.ldVxK 3) ∧ encode (.ldVxK 3) = 0xF30A := by decide
theorem test_decode_ldDtVx : decode 0xF015 = .ok (.ldDtVx 0) ∧ encode (.ldDtVx 0) = 0xF015 := by decide
theorem test_decode_ldStVx : decode 0xF018 = .ok (.ldStVx 0) ∧ encode (.ldStVx 0) = 0xF018 := by decide
theorem test_decode_addI : decode 0xF21E = .ok (.addI 2) ∧ encode (.addI 2) = 0xF21E := by decide
theorem test_decode_ldF : decode 0xF329 = .ok (.ldF 3) ∧ encode (.ldF 3) = 0xF329 := by decide
theorem test_decode_ldB : decode 0xF033 = .ok (.ldB 0) ∧ encode (.ldB 0) = 0xF033 := by decide
theorem test_decode_stRegs : decode 0xF255 = .ok (.stRegs 2) ∧ encode (.stRegs 2) = 0xF255 := by decide
theorem test_decode_ldRegs : decode 0xFF65 = .ok (.ldRegs 0xF) ∧ encode (.ldRegs 0xF) = 0xFF65 := by decide

/-- V-CYC-2: `5341` is unmapped. -/
theorem test_decode_5341 : decode 0x5341 = .error .group5 := by decide
/-- V-CYC-3: `8018` is unmapped. -/
theorem test_decode_8018 : decode 0x8018 = .error .group8 := by decide
/-- The historical `0nnn` is unmapped (R49). -/
theorem test_decode_0123 : decode 0x0123 = .error .group0 := by decide
/-- `9341` is unmapped (R48). -/
theorem test_decode_9341 : decode 0x9341 = .error .group9 := by decide
/-- `E59F` is unmapped (R48). -/
theorem test_decode_E59F : decode 0xE59F = .error .groupE := by decide
/-- `F075` is unmapped (R48). -/
theorem test_decode_F075 : decode 0xF075 = .error .groupF := by decide
/-- The word 6005 stands as the bytes 60 05 (R33), and the rest is given back. -/
theorem test_decodeBytes : (decodeBytes [0x60, 0x05, 0x70]).toOption = some (.ldImm 0 5, [0x70]) := by decide
/-- One byte is no instruction (R50). -/
theorem test_decodeBytes_short : (decodeBytes [0x60]).toOption = none := by decide
/-- The table's numbering of bits (R8). -/
theorem test_decodeTableWord : decodeTableWord 16 0xD125 = some (.drw 1 2 5) := by decide

/-! ### One step on a small state -/

/-- The reset state with some registers set and I at an address. -/
def start (regs : List (RegIdx × Byte)) (i : Word := 0) : State :=
  (regs.foldl (fun s r => s.setReg r.1 r.2) State.reset).setI i

/-- The state after one step that fetches the word at PC. -/
def after (s : State) (w : Nat) : State := stepState (s.withFetchWord 16 w)

/-- V-DRW-8, V-DRW-9: the grid unlit, DIRTY set. -/
theorem test_cls :
    (after ((State.reset.setDirty false).setFb (Framebuffer.blank.set 3 4 true)) 0x00E0).fb.get 3 4 = false ∧
    (after (State.reset.setDirty false) 0x00E0).dirty = true := by decide
/-- V-CF-7. -/
theorem test_ret :
    (after ((State.reset.setPc 0x300).setStack [0x202]) 0x00EE).pc = 0x202 ∧
    (after ((State.reset.setPc 0x300).setStack [0x202]) 0x00EE).stack = [] := by decide
/-- V-CF-6. -/
theorem test_ret_underflow :
    (after State.reset 0x00EE).fault = some ⟨.stackUnderflow, 0x200, some 0x00EE, none⟩ ∧
    (after State.reset 0x00EE).pc = 0x200 := by decide
/-- V-CF-1. -/
theorem test_jp :
    (after State.reset 0x1204).pc = 0x204 := by decide
/-- V-CF-3 and V-CF-4: the pushed address, at the top of 16 entries. -/
theorem test_call :
    (after (State.reset.setStack (List.replicate 15 0)) 0x2300).stack = List.replicate 15 0 ++ [0x202] ∧
    (after State.reset 0x2300).pc = 0x300 := by decide
/-- V-CF-5. -/
theorem test_call_overflow :
    (after (State.reset.setStack (List.replicate 16 0)) 0x2300).fault =
      some ⟨.stackOverflow, 0x200, some 0x2300, none⟩ ∧
    (after (State.reset.setStack (List.replicate 16 0)) 0x2300).pc = 0x200 := by decide
/-- V-CF-8. -/
theorem test_jpV0 :
    (after (start [(0, 0x10)]) 0xB300).pc = 0x310 := by decide
/-- V-CF-10: not reduced modulo 4096. -/
theorem test_jpV0_largest :
    (after (start [(0, 0xFF)]) 0xBFFF).pc = 0x10FE := by decide
/-- V-SKP-1. -/
theorem test_seImm_equal :
    (after ((start [(1, 0)]).setPc 0x208) 0x3100).pc = 0x20C := by decide
/-- V-SKP-2. -/
theorem test_seImm_differs :
    (after ((start [(1, 1)]).setPc 0x208) 0x3100).pc = 0x20A := by decide
/-- V-SKP-3. -/
theorem test_sneImm :
    (after (start [(2, 0x10)]) 0x42FF).pc = 0x204 := by decide
/-- V-SKP-4. -/
theorem test_sneImm_equal :
    (after (start [(2, 0xFF)]) 0x42FF).pc = 0x202 := by decide
/-- V-SKP-5. -/
theorem test_seReg :
    (after (start [(3, 7), (4, 7)]) 0x5340).pc = 0x204 := by decide
/-- V-SKP-7. -/
theorem test_sneReg :
    (after (start [(3, 7), (4, 8)]) 0x9340).pc = 0x204 := by decide
/-- V-SKP-8. -/
theorem test_sneReg_same :
    (after State.reset 0x9330).pc = 0x202 := by decide
/-- V-SKP-9. -/
theorem test_skp :
    (after ((start [(5, 0x0A)]).setKeys (State.reset.keys.set 0xA true)) 0xE59E).pc = 0x204 := by decide
/-- V-SKP-12: a number above 15 is not pressed. -/
theorem test_skp_number16 :
    (after ((start [(5, 0x1A)]).setKeys (Vector.replicate 16 true)) 0xE59E).pc = 0x202 := by decide
/-- V-SKP-11. -/
theorem test_sknp :
    (after (start [(5, 0x0A)]) 0xE5A1).pc = 0x204 := by decide
/-- V-SKP-13. -/
theorem test_sknp_number16 :
    (after ((start [(5, 0x1A)]).setKeys (Vector.replicate 16 true)) 0xE5A1).pc = 0x204 := by decide
/-- V-ALU-1. -/
theorem test_ldImm :
    (after State.reset 0x6005).reg 0 = 5 := by decide
/-- V-ALU-2: no carry flag. -/
theorem test_addImm_wraps :
    (after (start [(0, 0xFF)]) 0x7001).reg 0 = 0 ∧ (after (start [(0, 0xFF)]) 0x7001).reg 0xF = 0 := by decide
/-- V-ALU-4. -/
theorem test_ldReg :
    (after (start [(1, 0x42)]) 0x8010).reg 0 = 0x42 := by decide
/-- V-ALU-5: VF not reset. -/
theorem test_orReg :
    (after (start [(0, 0x0F), (1, 0xF0), (0xF, 1)]) 0x8011).reg 0 = 0xFF ∧
    (after (start [(0, 0x0F), (1, 0xF0), (0xF, 1)]) 0x8011).reg 0xF = 1 := by decide
/-- V-ALU-6. -/
theorem test_andReg :
    (after (start [(0, 0x3C), (1, 0x0F)]) 0x8012).reg 0 = 0x0C := by decide
/-- V-ALU-7. -/
theorem test_xorReg :
    (after (start [(0, 0x3C), (1, 0x0F)]) 0x8013).reg 0 = 0x33 := by decide
/-- W1. -/
theorem test_addReg :
    (after (start [(0, 0xF0), (1, 0x20)]) 0x8014).reg 0 = 0x10 ∧
    (after (start [(0, 0xF0), (1, 0x20)]) 0x8014).reg 0xF = 1 := by decide
/-- V-ALU-F1: the carry stays. -/
theorem test_addReg_destF :
    (after (start [(0xF, 0xF0), (1, 0x20)]) 0x8F14).reg 0xF = 1 := by decide
/-- W2: strict comparison. -/
theorem test_subReg_equal :
    (after (start [(0, 7), (1, 7)]) 0x8015).reg 0 = 0 ∧ (after (start [(0, 7), (1, 7)]) 0x8015).reg 0xF = 0 := by decide
/-- V-ALU-F7: vy is the old VF. -/
theorem test_subReg_sourceF :
    (after (start [(0, 5), (0xF, 3)]) 0x80F5).reg 0 = 2 ∧ (after (start [(0, 5), (0xF, 3)]) 0x80F5).reg 0xF = 1 := by decide
/-- V-ALU-9: y ignored. -/
theorem test_shrReg :
    (after (start [(0, 5), (1, 0x77)]) 0x8016).reg 0 = 2 ∧ (after (start [(0, 5), (1, 0x77)]) 0x8016).reg 0xF = 1 := by decide
/-- V-ALU-F3: the result stays. -/
theorem test_shrReg_destF :
    (after (start [(0xF, 5)]) 0x8F16).reg 0xF = 2 := by decide
/-- W2. -/
theorem test_subnReg :
    (after (start [(0, 5), (1, 3)]) 0x8017).reg 0 = 0xFE ∧ (after (start [(0, 5), (1, 3)]) 0x8017).reg 0xF = 0 := by decide
/-- V-ALU-F9. -/
theorem test_subnReg_sourceF :
    (after (start [(0, 1), (0xF, 0x10)]) 0x80F7).reg 0 = 0x0F ∧
    (after (start [(0, 1), (0xF, 0x10)]) 0x80F7).reg 0xF = 1 := by decide
/-- V-ALU-11: the flag is 1, not 80. -/
theorem test_shlReg :
    (after (start [(0, 0x81)]) 0x800E).reg 0 = 2 ∧ (after (start [(0, 0x81)]) 0x800E).reg 0xF = 1 := by decide
/-- V-ALU-12. -/
theorem test_shlReg_noCarry :
    (after (start [(0, 0x7F)]) 0x800E).reg 0 = 0xFE ∧ (after (start [(0, 0x7F)]) 0x800E).reg 0xF = 0 := by decide
/-- V-ALU-15: a mask of 0 gives 0 whatever is drawn. -/
theorem test_rnd_mask0 : (after State.reset 0xC000).reg 0 = 0 := by
  change Config.rand 0 &&& 0 = 0
  exact BitVec.and_zero
/-- V-ALU-16: a mask of FF gives the drawn byte. -/
theorem test_rnd_maskFF : (after State.reset 0xC0FF).reg 0 = Config.rand 0 := by
  change Config.rand 0 &&& 0xFF = Config.rand 0
  exact BitVec.and_allOnes
/-- V-IDX-1. -/
theorem test_ldI :
    (after State.reset 0xA300).i = 0x300 := by decide
/-- V-IDX-3: no reduction to 12 bits, no flag. -/
theorem test_addI :
    (after (start [(0, 1)] 0xFFF) 0xF01E).i = 0x1000 ∧ (after (start [(0, 1)] 0xFFF) 0xF01E).reg 0xF = 0 := by decide
/-- V-IDX-4. -/
theorem test_addI_wraps :
    (after (start [(0, 1)] 0xFFFF) 0xF01E).i = 0 := by decide
/-- V-IDX-5. -/
theorem test_ldF :
    (after (start [(3, 7)]) 0xF329).i = 0x023 := by decide
/-- V-IDX-8. -/
theorem test_ldF_noMask :
    (after (start [(0, 0xFF)]) 0xF029).i = 0x4FB := by decide
/-- V-IDX-9. -/
theorem test_ldB :
    bytesAt (after (start [(0, 254)] 0x300) 0xF033).mem 0x300 3 = [2, 5, 4] := by decide
/-- V-IDX-12: nothing written. -/
theorem test_ldB_outside :
    (after (start [(0, 254)] 0xFFE) 0xF033).fault = some ⟨.outOfBoundsAccess, 0x200, some 0xF033, some 0x1000⟩ ∧
    bytesAt (after (start [(0, 254)] 0xFFE) 0xF033).mem 0xFFE 2 = [0, 0] := by decide
/-- V-IDX-13. -/
theorem test_stRegs :
    bytesAt (after (start [(0, 1), (1, 2), (2, 3)] 0x400) 0xF255).mem 0x400 4 = [1, 2, 3, 0] ∧
    (after (start [(0, 1), (1, 2), (2, 3)] 0x400) 0xF255).i = 0x400 := by decide
/-- V-IDX-18: the last byte at 0xFFF. -/
theorem test_stRegs_toTop :
    (after (start [(0xF, 9)] 0xFF0) 0xFF55).fault = none ∧ (after (start [(0xF, 9)] 0xFF0) 0xFF55).mem.read 0xFFF = 9 := by decide
/-- V-IDX-15. -/
theorem test_ldRegs :
    (after ((start [(3, 0x77)] 0x300).setMem (cellsOver [(0x300, 2), (0x301, 5), (0x302, 4)])) 0xF265).v.toList.take 4 =
    [2, 5, 4, 0x77] := by decide
/-- V-IDX-16. -/
theorem test_ldRegs_outside :
    (after (start [] 0x1005) 0xF365).fault = some ⟨.outOfBoundsAccess, 0x200, some 0xF365, some 0x1005⟩ := by decide
/-- V-TMR-1. -/
theorem test_ldVxDt :
    (after (State.reset.setDt 0x3C) 0xF107).reg 1 = 0x3C ∧ (after (State.reset.setDt 0x3C) 0xF107).dt = 0x3C := by decide
/-- V-TMR-2. -/
theorem test_ldDtVx :
    (after (start [(0, 5)]) 0xF015).dt = 5 := by decide
/-- V-TMR-3. -/
theorem test_ldStVx :
    (after (start [(0, 2)]) 0xF018).st = 2 := by decide
/-- V-KEY-1: then idle. -/
theorem test_ldVxK :
    (after State.reset 0xF30A).wait = some 3 ∧ stepState (after State.reset 0xF30A) = after State.reset 0xF30A := by decide
/-- V-DRW-3: the sprite wraps at the right edge. -/
theorem test_drw_wraps :
    (after ((start [(0, 0x3F)] 0x300).setMem (cellsOver [(0x300, 0xC0)])) 0xD011).fb.get 0 63 = true ∧
    (after ((start [(0, 0x3F)] 0x300).setMem (cellsOver [(0x300, 0xC0)])) 0xD011).fb.get 0 0 = true ∧
    (after ((start [(0, 0x3F)] 0x300).setMem (cellsOver [(0x300, 0xC0)])) 0xD011).fb.get 0 1 = false ∧
    (after ((start [(0, 0x3F)] 0x300).setMem (cellsOver [(0x300, 0xC0)])) 0xD011).reg 0xF = 0 := by decide
/-- V-DRW-7: the whole step is rolled back. -/
theorem test_drw_outside :
    (after ((start [(0xF, 1)] 0xFFD).setMem (cellsOver [(0xFFD, 0xFF)])) 0xD015).fault =
      some ⟨.outOfBoundsAccess, 0x200, some 0xD015, some 0x1000⟩ ∧
    (after ((start [(0xF, 1)] 0xFFD).setMem (cellsOver [(0xFFD, 0xFF)])) 0xD015).fb = Framebuffer.blank ∧
    (after ((start [(0xF, 1)] 0xFFD).setMem (cellsOver [(0xFFD, 0xFF)])) 0xD015).reg 0xF = 1 := by decide
/-- V-CYC-1: only PC changes. -/
theorem test_unmapped :
    stepState State.reset = State.reset.setPc 0x202 := by decide
/-- V-CYC-5. -/
theorem test_fetch_outside :
    stepState (State.reset.setPc 0xFFF) =
      (State.reset.setPc 0xFFF).setFault (some ⟨.outOfBoundsAccess, 0xFFF, none, some 0x1000⟩) := by decide
/-- V-TMR-4, V-TMR-5: the tone is a level after the decrement. -/
theorem test_tick :
    (tickTimer (State.reset.setSt 2)).1 = true ∧ (tickTimer (State.reset.setSt 1)).1 = false ∧
    (tickTimer (State.reset.setSt 1)).2.st = 0 ∧ (tickTimer State.reset).2.dt = 0 := by decide
/-- V-KEY-2. -/
theorem test_key_press_resolves :
    (setKey 7 true (after State.reset 0xF30A)).reg 3 = 7 ∧ (setKey 7 true (after State.reset 0xF30A)).wait = none ∧
    (setKey 7 true (after State.reset 0xF30A)).isRunning = true := by decide
/-- V-KEY-3. -/
theorem test_key_release_waits :
    (setKey 2 false (after State.reset 0xF10A)).wait = some 1 := by decide
/-- V-HOST-5 and W7, the empty image and the record of a load fault (R107). -/
theorem test_load_too_large :
    load [] State.reset = (true, State.reset) ∧
    (takeFault State.reset none ⟨.programTooLarge, some 3585⟩).fault =
      some ⟨.programTooLarge, 0x200, none, some 3585⟩ := by decide
/-- P1: two steps give V0 = 8 and PC = 204. -/
theorem test_load_then_step :
    (stepTimes 2 (load [0x60, 0x05, 0x70, 0x03] State.reset).2).reg 0 = 8 ∧
    (stepTimes 2 (load [0x60, 0x05, 0x70, 0x03] State.reset).2).pc = 0x204 := by decide
/-- V-HOST-1. -/
theorem test_frameReport :
    (frameReport State.reset).1 = true ∧ (frameReport (frameReport State.reset).2).1 = false := by decide
/-- Glyphs 0, 7 and F at 5d, and the first byte past the font (R21, the default FONT). -/
theorem test_font_glyphs :
    bytesAt State.reset.mem 0x000 5 = [0xF0, 0x90, 0x90, 0x90, 0xF0] ∧
    bytesAt State.reset.mem 0x023 5 = [0xF0, 0x10, 0x20, 0x40, 0x40] ∧
    bytesAt State.reset.mem 0x04B 6 = [0xF0, 0x80, 0xF0, 0x80, 0x80, 0] := by decide
/-- A machine given another FONT holds it, a store over it stays until reset, and reset restores that FONT (R7, R21). -/
theorem test_font_parameter :
    (State.construct (Vector.replicate 80 0xAA)).mem.read 0x04F = 0xAA ∧
    (after (State.construct (Vector.replicate 80 0xAA)) 0xF055).mem.read 0 = 0 ∧
    (resetMachine (after (State.construct (Vector.replicate 80 0xAA)) 0xF055)).mem.read 0 = 0xAA := by decide
/-- The host interface runs the same step. -/
theorem test_core_step_of_reset :
    (match core.step core.reset with | .next t => t.pc | _ => 0) = 0x202 := by decide

/-! ### Witnesses: a state and operands that meet the hypotheses of each statement that has some -/

/-- EncodeOfDecode, DecodeFollowsOpcodeMap. -/
theorem witness_decodes : decode 0xD125 = .ok (.drw 1 2 5) ∧ (∃ r ∈ opcodeMap, r.matchesWord 0xD125 = true) := by decide

/-- OpcodeRowsDisjoint. -/
theorem witness_rowMatches : ∃ r ∈ opcodeMap, r.matchesWord 0x00EE = true := by decide

/-- UnmappedWordsAreThoseListed: a word in each space. -/
theorem witness_unmappedSpaces :
    unmappedWord 0x0FFF .group0 ∧ unmappedWord 0x5341 .group5 ∧ unmappedWord 0x8018 .group8 ∧
    unmappedWord 0x900F .group9 ∧ unmappedWord 0xE000 .groupE ∧ unmappedWord 0xFF66 .groupF := by
  unfold unmappedWord; decide

/-- StepRunsDecodedInstr. -/
theorem witness_stepRuns : ∃ (s : State) (i : Instr), s.paused = false ∧ s.fault = none ∧ s.wait = none ∧
    s.pc.toNat + 1 ≤ 0xFFF ∧ decode (s.mem.read s.pc.toNat ++ s.mem.read (s.pc.toNat + 1)) = .ok i :=
  ⟨(State.reset.setPc 0xFFE).setMem (cellsOver [(0xFFE, 0x60), (0xFFF, 0x05)]), .ldImm 0 5, by decide⟩

/-- UnmappedWordOnlyAdvances. -/
theorem witness_unmappedFetched : State.reset.isRunning = true ∧ State.reset.fetch = .ok 0 ∧
    decode 0 = .error .group0 := ⟨by decide, rfl, by decide⟩

/-- StepIdleUnlessRunning: each of the three latches alone. -/
theorem witness_idleLatches : (State.reset.setPaused true).paused = true ∧
    (State.reset.setFault (some ⟨.stackUnderflow, 0x200, some 0x00EE, none⟩)).fault ≠ none ∧
    (State.reset.setWait (some 3)).wait ≠ none := by decide

/-- FetchFaultRecorded: at both values its address clause tells apart. -/
theorem witness_fetchFault : (State.reset.setPc 0xFFF).isRunning = true ∧ 0xFFE < (State.reset.setPc 0xFFF).pc.toNat ∧
    (State.reset.setPc 0x1000).isRunning = true ∧ 0xFFF < (State.reset.setPc 0x1000).pc.toNat := by decide

/-- PlacedWordRunsNext: with PC in range and with no room at PC. -/
theorem witness_placedWord : State.reset.mem.wf = true ∧ decode 0x6005 = .ok (.ldImm 0 5) ∧
    State.reset.pc.toNat + 1 ≤ 0xFFF ∧ (State.reset.setPc 0xFFF).mem.wf = true ∧
    ¬(State.reset.setPc 0xFFF).pc.toNat + 1 ≤ 0xFFF := by decide

/-- FaultsArePrecise, StepFaultCauses: a fetch fault. -/
theorem witness_fetchFaults : ∃ s t : State, s.isRunning = true ∧ step s = .next t ∧
    t.fault.map (·.kind) = some .outOfBoundsAccess := ⟨State.reset.setPc 0x1000, _, by decide, rfl, by decide⟩

/-- FaultsArePrecise, StepFaultCauses: an access of an instruction. -/
theorem witness_accessFaults : ∃ s t : State, s.isRunning = true ∧ step s = .next t ∧
    t.fault.map (·.kind) = some .outOfBoundsAccess :=
  ⟨(State.reset.setI 0x1005).withFetchWord 16 0xF365, _, by decide, rfl, by decide⟩

/-- FaultsArePrecise, StepFaultCauses: a call at capacity. -/
theorem witness_overflows : ∃ s t : State, s.isRunning = true ∧ step s = .next t ∧
    t.fault.map (·.kind) = some .stackOverflow :=
  ⟨(State.reset.setStack (List.replicate 16 0)).withFetchWord 16 0x2300, _, by decide, rfl, by decide⟩

/-- FaultsArePrecise, StepFaultCauses: a return on an empty stack. -/
theorem witness_underflows : ∃ s t : State, s.isRunning = true ∧ step s = .next t ∧
    t.fault.map (·.kind) = some .stackUnderflow :=
  ⟨State.reset.withFetchWord 16 0x00EE, _, by decide, rfl, by decide⟩

/-- StepKeepsInvariant, TransactionsKeepInvariant: a state that meets the invariant, with a step from it. -/
theorem witness_invariant : State.reset.Inv ∧ ∃ t : State, step State.reset = .next t :=
  ⟨⟨Nat.zero_le _, fun _ h => (by cases h), by decide, .inl rfl, fun _ h => (by cases h), rfl⟩, _, rfl⟩

/-- LoadCopiesOrRefuses: the longest image that fits, and the shortest that does not. -/
theorem witness_images : ∃ a b : List Byte, a.length ≤ 3584 ∧ 3584 < b.length ∧ b.length ≤ 3585 :=
  ⟨List.replicate 3584 0, List.replicate 3585 0, Nat.le_of_eq List.length_replicate,
    Nat.lt_of_lt_of_eq (Nat.lt_succ_self 3584) List.length_replicate.symm, Nat.le_of_eq List.length_replicate⟩

/-- AddCarryResult, SubtractResults, ShiftResults: a destination other than F, and a third register. -/
theorem witness_destinationNotF : (0 : RegIdx) ≠ 0xF ∧ (1 : RegIdx) ≠ 0 ∧ (1 : RegIdx) ≠ 0xF := by decide

/-- CallResult: one below capacity, and at capacity. -/
theorem witness_stackDepths : (State.reset.setStack (List.replicate 15 0)).stack.length < 16 ∧
    (State.reset.setStack (List.replicate 16 0)).stack.length = 16 := by decide

/-- ReturnResult: one entry, and none. -/
theorem witness_returnStacks : (State.reset.setStack [0x202]).stack = [] ++ [0x202] ∧ State.reset.stack = [] := by decide

/-- CallThenReturn. -/
theorem witness_callThenReturn : ∃ s t u : State, s.stack.length < 16 ∧ exec (.call 0x300) s = .next t ∧
    u.stack = t.stack := ⟨State.reset, _, _, by decide, rfl, rfl⟩

/-- KeySkipResults: the numbers 15 and 16, a key held and one not. -/
theorem witness_keyNumbers : ((start [(5, 15)]).reg 5).toNat = (15 : Fin 16).val ∧ 16 ≤ ((start [(5, 16)]).reg 5).toNat ∧
    ((start [(5, 15)]).setKeys (State.reset.keys.set 15 true)).keys[15] = true ∧ State.reset.keys[15] = false := by decide

/-- SelfLoopRepeats; JumpResult's clause on a jump to its own address. -/
theorem witness_selfLoop : (State.reset.withFetchWord 16 0x1200).endSelfLoop :=
  ⟨by decide, 0x200, by decide, rfl⟩

/-- StoreDecimalResult: the last address that fits and the first that does not, and each way the lowest bad address
can fall. -/
theorem witness_decimalBases : State.reset.mem.wf = true ∧ (State.reset.setI 0xFFD).i.toNat + 2 ≤ 0xFFF ∧
    0xFFF < (State.reset.setI 0xFFE).i.toNat + 2 ∧ 0xFFF < (State.reset.setI 0xFFF).i.toNat + 2 ∧
    0xFFF < (State.reset.setI 0x1000).i.toNat + 2 := by decide

/-- StoreRegistersResult, LoadRegistersResult: both sides of the bound. -/
theorem witness_registerBases : State.reset.mem.wf = true ∧ (State.reset.setI 0xFF0).i.toNat + (15 : RegIdx).val ≤ 0xFFF ∧
    0xFFF < (State.reset.setI 0xFF1).i.toNat + (15 : RegIdx).val := by decide

/-- StoredCodeIsFetched. -/
theorem witness_storedCode : ∃ s t u : State, s.mem.wf = true ∧ 1 ≤ (1 : RegIdx).val ∧ s.i.toNat + (1 : RegIdx).val ≤ 0xFFF ∧
    exec (.stRegs 1) s = .next t ∧ u.mem = t.mem ∧ u.pc = s.i :=
  ⟨start [(0, 0x12), (1, 0x08)] 0x208, _, (State.reset.setPc 0x208).setMem (cellsOver [(0x208, 0x12), (0x209, 0x08)]),
    by decide, by decide, by decide, rfl, by decide, by decide⟩

/-- DrawResult: no row with I out of range, and rows up to the last byte; a cell hit and one not. -/
theorem witness_drawBases : (0 : Nibble).toNat = 0 ∧ (State.reset.setI 0xFF1).i.toNat + (15 : Nibble).toNat ≤ 0x1000 ∧
    ¬(State.reset.setI 0xFFFF).i.toNat + (1 : Nibble).toNat ≤ 0x1000 := by decide

/-- DrawResult: the glyph of 0 drawn at (0, 0) hits cell (0, 0) and not cell (0, 4). -/
theorem witness_drawHits : spriteHits State.reset 0 1 5 0 0 ∧ ¬spriteHits State.reset 0 1 1 0 4 := by
  refine ⟨⟨0, 0, by decide⟩, ?_⟩
  rintro ⟨k, j, hk, hj, hb, -, hc⟩
  have hk0 : k = 0 := Nat.lt_one_iff.mp hk
  have hc' : 4 = (0 + j) % 64 := hc
  have hj4 : j = 4 := by omega
  subst hk0 hj4
  exact absurd hb (by decide)

/-- DrawFault. -/
theorem witness_drawFault : 1 ≤ (5 : Nibble).toNat ∧ 0x1000 < (State.reset.setI 0xFFD).i.toNat + (5 : Nibble).toNat := by decide

/-- DrawTwiceRestores, RepeatedDrawCollision: the longest sprite. -/
theorem witness_spriteRows : (List.replicate 15 (0xFF : Byte)).length ≤ 15 := by decide

/-- KeyEventResults: the last key, the first number that is none, a wait pending and none. -/
theorem witness_keyEvents : (15 : Nat) < 16 ∧ 16 ≤ (16 : Nat) ∧ (State.reset.setWait (some 3)).wait = some 3 ∧
    State.reset.wait = none := by decide

/-- FaultIsSticky. -/
theorem witness_faultPending : ∃ (x : Transaction) (s : State) (r : FaultRecord), s.fault = some r ∧ x ≠ .reset ∧
    ∀ image, x ≠ .load image :=
  ⟨.resume, State.reset.setFault (some ⟨.stackUnderflow, 0x200, some 0x00EE, none⟩), _, rfl, by decide,
    fun _ => by simp⟩

/-- StepResultReported: a Halted machine, a step that faults and one that does not. -/
theorem witness_stepResults : (State.reset.setPaused true).isRunning = false ∧ State.reset.isRunning = true ∧
    stepResult State.reset = .ok ∧ stepResult (State.reset.setPc 0x1000) = .faulted .outOfBoundsAccess := by decide

/-- RegisterInstrFrames: each of its three groups answers a next state. -/
theorem witness_registerFrames : (∃ t, exec (.ldImm 0 5) State.reset = .next t) ∧
    (∃ t, exec (.subReg 0 1) State.reset = .next t) ∧ (∃ t, exec (.rnd 0 0xFF) State.reset = .next t) :=
  ⟨⟨_, rfl⟩, ⟨_, rfl⟩, ⟨_, rfl⟩⟩

/-- ControlInstrFrames. -/
theorem witness_controlFrames : (∃ t, exec (.jp 0x300) State.reset = .next t) ∧
    (∃ t, exec (.call 0x300) State.reset = .next t) ∧ (∃ t, exec .ret State.reset = .next t) :=
  ⟨⟨_, rfl⟩, ⟨_, rfl⟩, ⟨_, rfl⟩⟩

/-- IndexAndTimerInstrFrames. -/
theorem witness_indexFrames : (∃ t, exec (.addI 0) State.reset = .next t) ∧ (∃ t, exec (.ldDtVx 0) State.reset = .next t) ∧
    (∃ t, exec (.ldStVx 0) State.reset = .next t) ∧ (∃ t, exec (.ldVxK 0) State.reset = .next t) :=
  ⟨⟨_, rfl⟩, ⟨_, rfl⟩, ⟨_, rfl⟩, ⟨_, rfl⟩⟩

/-- MemoryInstrFrames. -/
theorem witness_memoryFrames : (∃ t, exec (.ldB 0) (State.reset.setI 0x300) = .next t) ∧
    (∃ t, exec (.stRegs 3) (State.reset.setI 0x300) = .next t) ∧ (∃ t, exec (.ldRegs 3) State.reset = .next t) :=
  ⟨⟨_, rfl⟩, ⟨_, rfl⟩, ⟨_, rfl⟩⟩

/-- DisplayInstrFrames. -/
theorem witness_displayFrames : (∃ t, exec .cls State.reset = .next t) ∧ ∃ t, exec (.drw 0 1 5) State.reset = .next t :=
  ⟨⟨_, rfl⟩, ⟨_, rfl⟩⟩

/-- WritersOfEachElement: an instruction that changes its own element. -/
theorem witness_writers : ∃ t, exec (.ldI 0x300) State.reset = .next t ∧ t.i ≠ State.reset.i := ⟨_, rfl, by decide⟩

/-- FlagWritersOnly: an instruction that changes VF. -/
theorem witness_flagWriter : ∃ t, exec (.addReg 0 1) (start [(0, 0xFF), (1, 1)]) = .next t ∧
    t.reg 0xF ≠ (start [(0, 0xFF), (1, 1)]).reg 0xF := ⟨_, rfl, by decide⟩

end Sys2Proof.Tests
end

section
/-! The step's gate and its unmapped branch (spec/40_cycle.md R53, R57), and the two statements of that family. -/

namespace Sys2Proof.Machine

/-! ### One rule per branch of `step` -/

/-- The gate of R53, closed: one of the three latches of R25 is set. -/
theorem State.isRunning_eq_false_iff (s : State) :
    s.isRunning = false ↔ s.paused = true ∨ s.fault ≠ none ∨ s.wait ≠ none := by
  rw [← Bool.not_eq_true, s.isRunning_iff, not_and_or, not_and_or, Bool.not_eq_false]

/-- The idle branch (R53). -/
theorem step_of_not_running {s : State} (hidle : s.isRunning = false) : step s = .next s := by
  simp [step, hidle, execIdle]

/-- The unmapped branch (R57). -/
theorem step_of_unmapped {s : State} {w : Word} {u : Unmapped} (hrun : s.isRunning = true)
    (hfetch : s.fetch = .ok w) (hdecode : decode w = .error u) : step s = .next s.advance := by
  simp [step, hrun, hfetch, hdecode, execUnmapped]

/-! ### What the host sees of a step (R60) -/

theorem stepState_of_next {s t : State} (h : step s = .next t) : stepState s = t := by
  simp [stepState, h]

theorem stepResult_of_not_running {s : State} (hidle : s.isRunning = false) : stepResult s = .idle := by
  simp [stepResult, hidle]

theorem Transaction.apply_step (s : State) :
    Transaction.step.apply s = (.stepped (stepResult s), stepState s) := rfl

/-! ### The statements -/

/-- Settles O8: the step takes its unmapped branch, whose only effect is the advance of R55. -/
theorem unmappedWordOnlyAdvances : Obligations.UnmappedWordOnlyAdvances := by
  intro s w u hrun hfetch hdecode
  calc step s = .next s.advance := step_of_unmapped hrun hfetch hdecode
    _ = .next { s with pc := s.pc + 2 } := rfl

/-- Settles O9: any one latch closes the gate, and behind a closed gate both the step and what it returns are idle. -/
theorem stepIdleUnlessRunning : Obligations.StepIdleUnlessRunning := by
  intro s hlatch
  have hidle : s.isRunning = false := s.isRunning_eq_false_iff.mpr hlatch
  have hstep : step s = .next s := step_of_not_running hidle
  refine ⟨hstep, ?_⟩
  rw [Transaction.apply_step, stepResult_of_not_running hidle, stepState_of_next hstep]

end Sys2Proof.Machine
end

section
/-! Jump, call and return (spec/42_control_flow.md R67 to R69), and the three statements of that family. -/

namespace Sys2Proof.Machine

/-! ### The program counter and fault entry as state equations -/

@[simp] theorem State.setPc_self (s : State) : s.setPc s.pc = s := rfl

/-- Fault entry rolls the step back: only the record differs (R58). -/
theorem takeFault_eq (s : State) (w : Option Word) (e : Trap) :
    takeFault s w e = { s with fault := some ⟨e.kind, s.pc, w, e.addr⟩ } := rfl

/-! ### What the dispatched instruction does, one rule per outcome -/

/-- The target is written last, so nothing of the advance of R55 is left. -/
theorem exec_jp (nnn : Addr12) (s : State) : exec (.jp nnn) s = .next (s.setPc (zext nnn)) := rfl

theorem exec_call_of_lt {s : State} (nnn : Addr12) (h : s.stack.length < Config.stackCap) :
    exec (.call nnn) s = .next ((s.advance.setStack (s.stack ++ [s.pc + 2])).setPc (zext nnn)) :=
  (execCall_eq nnn s).trans (if_pos h)

theorem exec_call_of_not_lt {s : State} (nnn : Addr12) (h : ¬s.stack.length < Config.stackCap) :
    exec (.call nnn) s = .next (takeFault s (some (encode (.call nnn))) ⟨.stackOverflow, none⟩) :=
  (execCall_eq nnn s).trans (if_neg h)

theorem exec_ret_of_append {s : State} {l : List Word} {w : Word} (h : s.stack = l ++ [w]) :
    exec .ret s = .next ((s.advance.setStack l).setPc w) := execRet_append s l w h

theorem exec_ret_of_nil {s : State} (h : s.stack = []) :
    exec .ret s = .next (takeFault s (some (encode .ret)) ⟨.stackUnderflow, none⟩) := execRet_nil s h

/-! ### The statements -/

/-- Settles O26: the jump only writes PC, so a jump to its own address writes back the PC it began with. -/
theorem jumpResult : Obligations.JumpResult := by
  intro s nnn
  refine ⟨(Laws.Encodes.jp nnn).2, s.setPc (zext nnn), exec_jp nnn s, zext_toNat nnn, rfl, fun _ => rfl, ?_⟩
  intro hself
  have hpc : zext nnn = s.pc := BitVec.eq_of_toNat_eq ((zext_toNat nnn).trans hself)
  rw [hpc, State.setPc_self]

/-- Settles O27: below capacity the push succeeds and the jump follows it; at capacity the push traps and fault entry
keeps everything but the record. -/
theorem callResult : Obligations.CallResult := by
  intro s nnn
  refine ⟨(Laws.Encodes.call nnn).2, fun hroom => ?_, fun hfull => ?_⟩
  · exact ⟨_, exec_call_of_lt nnn hroom, rfl, zext_toNat nnn, rfl, fun _ => rfl⟩
  · have hcap : ¬s.stack.length < Config.stackCap := hfull.not_lt
    exact ⟨⟨.stackOverflow, s.pc, some (encode (.call nnn)), none⟩,
      by rw [exec_call_of_not_lt nnn hcap, takeFault_eq], rfl⟩

/-- Settles O28: with an entry on top the pop gives it to PC as it is; on an empty stack the pop traps and fault entry
keeps everything but the record. -/
theorem returnResult : Obligations.ReturnResult := by
  refine ⟨rfl, fun s => ⟨fun l w htop => ?_, fun hempty => ?_⟩⟩
  · exact ⟨_, exec_ret_of_append htop, rfl, rfl, rfl, fun _ => rfl⟩
  · exact ⟨⟨.stackUnderflow, s.pc, some (encode .ret), none⟩,
      by rw [exec_ret_of_nil hempty, takeFault_eq], rfl⟩

end Sys2Proof.Machine
end

section
/-! The skips on registers (spec/43_skips.md R73 to R77), and the one statement of that family. -/

namespace Sys2Proof.Machine

/-! ### The skip after the advance -/

/-- The advance of R55 and the skip of R73 together: one instruction length, or two. -/
theorem State.advance_skipIf_pc (s : State) (c : Bool) :
    (s.advance.skipIf c).pc = if c then s.pc + 4 else s.pc + 2 := by
  have htwice : s.pc + 2 + 2 = s.pc + 4 := BitVec.add_assoc s.pc 2 2
  rw [State.skipIf_pc, State.advance_pc, htwice]

/-- What an instruction that only advances and may skip leaves, its test `c` read as the proposition `p` of its rule. -/
theorem skip_result {s : State} {i : Instr} {c : Bool} {p : Prop} [Decidable p]
    (hexec : exec i s = .next (s.advance.skipIf c)) (hc : c = true ↔ p) :
    ∃ t, exec i s = .next t ∧ t.fault = s.fault ∧ (∀ j, t.reg j = s.reg j) ∧
      t.pc = if p then s.pc + 4 else s.pc + 2 := by
  refine ⟨s.advance.skipIf c, hexec, s.advance.skipIf_fault c, s.advance.skipIf_reg c, ?_⟩
  rw [State.advance_skipIf_pc, if_congr hc rfl rfl]

/-! ### What the dispatched instruction does -/

theorem exec_seImm (x : RegIdx) (nn : Byte) (s : State) :
    exec (.seImm x nn) s = .next (s.advance.skipIf (s.reg x == nn)) := rfl

theorem exec_sneImm (x : RegIdx) (nn : Byte) (s : State) :
    exec (.sneImm x nn) s = .next (s.advance.skipIf (s.reg x != nn)) := rfl

theorem exec_seReg (x y : RegIdx) (s : State) :
    exec (.seReg x y) s = .next (s.advance.skipIf (s.reg x == s.reg y)) := rfl

theorem exec_sneReg (x y : RegIdx) (s : State) :
    exec (.sneReg x y) s = .next (s.advance.skipIf (s.reg x != s.reg y)) := rfl

/-! ### The statement -/

/-- Settles O31: each of the four only advances and skips on its test, and the test is the condition of its rule. -/
theorem registerSkipResults : Obligations.RegisterSkipResults := by
  intro s x y nn
  refine ⟨⟨(Laws.Encodes.seImm x nn).2, ?_⟩, ⟨(Laws.Encodes.sneImm x nn).2, ?_⟩,
    ⟨(Laws.Encodes.seReg x y).2, ?_⟩, ⟨(Laws.Encodes.sneReg x y).2, ?_⟩⟩
  · exact skip_result (exec_seImm x nn s) beq_iff_eq
  · exact skip_result (exec_sneImm x nn s) bne_iff_ne
  · exact skip_result (exec_seReg x y s) beq_iff_eq
  · exact skip_result (exec_sneReg x y s) bne_iff_ne

end Sys2Proof.Machine
end

section
/-! The loads to a register and the bitwise instructions that leave VF alone (spec/44_register_alu.md R81, R83, R85,
R86), and the one statement of that family. -/

namespace Sys2Proof.Machine

/-! ### One register written after the advance -/

/-- What an instruction that only advances and writes `b` to `V[x]` leaves; `x = F` is no exception. -/
theorem writeReg_result {s : State} {i : Instr} {x : RegIdx} {b : Byte}
    (hexec : exec i s = .next (s.advance.setReg x b)) :
    ∃ t, exec i s = .next t ∧ t.pc = s.pc + 2 ∧ t.fault = s.fault ∧
      ∀ j, t.reg j = if j = x then b else s.reg j := by
  refine ⟨s.advance.setReg x b, hexec, ?_, ?_, fun j => ?_⟩
  · rw [State.setReg_pc, State.advance_pc]
  · rw [State.setReg_fault, State.advance_fault]
  · rw [State.reg_setReg, State.advance_reg]

/-! ### What the dispatched instruction does -/

theorem exec_ldImm (x : RegIdx) (nn : Byte) (s : State) :
    exec (.ldImm x nn) s = .next (s.advance.setReg x nn) := rfl

theorem exec_ldReg (x y : RegIdx) (s : State) :
    exec (.ldReg x y) s = .next (s.advance.setReg x (s.reg y)) := rfl

theorem exec_andReg (x y : RegIdx) (s : State) :
    exec (.andReg x y) s = .next (s.advance.setReg x (s.reg x &&& s.reg y)) := rfl

theorem exec_xorReg (x y : RegIdx) (s : State) :
    exec (.xorReg x y) s = .next (s.advance.setReg x (s.reg x ^^^ s.reg y)) := rfl

/-! ### The statement -/

/-- Settles O20: each of the four only advances and writes V[x], with a value read before the write. -/
theorem loadAndXorResults : Obligations.LoadAndXorResults := by
  intro s x y nn
  refine ⟨⟨(Laws.Encodes.ldImm x nn).2, ?_⟩, ⟨(Laws.Encodes.ldReg x y).2, ?_⟩,
    ⟨(Laws.Encodes.andReg x y).2, ?_⟩, ⟨(Laws.Encodes.xorReg x y).2, ?_⟩⟩
  · exact writeReg_result (exec_ldImm x nn s)
  · exact writeReg_result (exec_ldReg x y s)
  · exact writeReg_result (exec_andReg x y s)
  · exact writeReg_result (exec_xorReg x y s)

end Sys2Proof.Machine
end

section
/-! The load of I and the decimal store (spec/45_index_memory.md R95, R98, R101), and the two statements of that
family. -/

namespace Sys2Proof.Machine

/-! ### The decimal digits as numbers (R98)

Each digit is below 256, so its byte loses nothing. -/

theorem decimalDigits_hundreds_toNat (b : Byte) : (decimalDigits b)[0].toNat = b.toNat / 100 :=
  (BitVec.toNat_ofNat _ _).trans (Nat.mod_eq_of_lt (by omega))

theorem decimalDigits_tens_toNat (b : Byte) : (decimalDigits b)[1].toNat = b.toNat / 10 % 10 :=
  (BitVec.toNat_ofNat _ _).trans (Nat.mod_eq_of_lt (by omega))

theorem decimalDigits_units_toNat (b : Byte) : (decimalDigits b)[2].toNat = b.toNat % 10 :=
  (BitVec.toNat_ofNat _ _).trans (Nat.mod_eq_of_lt (by omega))

/-! ### What the dispatched instruction does, one rule per outcome -/

theorem exec_ldI (nnn : Addr12) (s : State) : exec (.ldI nnn) s = .next (s.advance.setI (zext nnn)) := rfl

theorem exec_ldB_eq (x : RegIdx) (s : State) :
    exec (.ldB x) s = if s.base + 3 ≤ Config.memSize
      then .next (s.advance.setMem (s.mem.writeAll s.base (decimalDigits (s.reg x))))
      else .next (takeFault s (some (encode (.ldB x))) (outOfBounds (max s.base Config.memSize))) := by
  have hne : decimalDigits (s.reg x) ≠ [] := List.cons_ne_nil _ _
  have hexec : exec (.ldB x) s = storeAtI (.ldB x) (decimalDigits (s.reg x)) s := rfl
  simp only [hexec, storeAtI_eq, hne, false_or, decimalDigits_length]

theorem exec_ldB_of_le {s : State} (x : RegIdx) (h : s.base + 3 ≤ Config.memSize) :
    exec (.ldB x) s = .next (s.advance.setMem (s.mem.writeAll s.base (decimalDigits (s.reg x)))) :=
  (exec_ldB_eq x s).trans (if_pos h)

theorem exec_ldB_of_not_le {s : State} (x : RegIdx) (h : ¬s.base + 3 ≤ Config.memSize) :
    exec (.ldB x) s = .next (takeFault s (some (encode (.ldB x))) (outOfBounds (max s.base Config.memSize))) :=
  (exec_ldB_eq x s).trans (if_neg h)

/-! ### The statements -/

/-- Settles O36: inside the bound the three digits are written and read back; past it fault entry records
max(I, 0x1000), which is the lowest bad address, and keeps everything but the record. -/
theorem storeDecimalResult : Obligations.StoreDecimalResult := by
  intro s x
  refine ⟨(Laws.Encodes.ldB x).2, fun hwf => ⟨fun hfits => ?_, fun hover => ?_⟩⟩
  · have hle : s.base + 3 ≤ Config.memSize := Nat.succ_le_succ hfits
    have hread := Memory.read_writeAll hwf s.base (decimalDigits (s.reg x)) hle
    refine ⟨_, exec_ldB_of_le x hle, rfl, rfl, rfl, ?_, ?_, ?_, fun _ => rfl⟩
    · exact (congrArg BitVec.toNat (hread 0 (by simp))).trans (decimalDigits_hundreds_toNat _)
    · exact (congrArg BitVec.toNat (hread 1 (by simp))).trans (decimalDigits_tens_toNat _)
    · exact (congrArg BitVec.toNat (hread 2 (by simp))).trans (decimalDigits_units_toNat _)
  · have hnot : ¬s.base + 3 ≤ Config.memSize := (Nat.succ_lt_succ hover).not_ge
    refine ⟨_, _, max s.i.toNat 0x1000, exec_ldB_of_not_le x hnot, rfl, rfl, rfl, ?_, ?_, ?_, rfl, fun _ => rfl,
      fun _ => rfl⟩
    · omega
    · omega
    · intro b hb hlt
      omega

/-- Settles O34: the instruction only advances and writes I, and the widening of nnn keeps its number. -/
theorem setIndexResult : Obligations.SetIndexResult := by
  intro s nnn
  exact ⟨(Laws.Encodes.ldI nnn).2, _, exec_ldI nnn s, rfl, zext_toNat nnn, rfl, fun _ => rfl⟩

end Sys2Proof.Machine
end

section
/-! The delay timer loads (spec/46_timers_input.md R102, R104), and the one statement of that family. -/

namespace Sys2Proof.Machine

/-! ### What the dispatched instruction does -/

theorem exec_ldVxDt (x : RegIdx) (s : State) : exec (.ldVxDt x) s = .next (s.advance.setReg x s.dt) := rfl

theorem exec_ldDtVx (x : RegIdx) (s : State) : exec (.ldDtVx x) s = .next (s.advance.setDt (s.reg x)) := rfl

/-! ### The statement -/

/-- Settles O45: the read advances and writes V[x] alone, so DT stays; the write advances and writes DT alone, so the
registers stay. -/
theorem delayTimerResults : Obligations.DelayTimerResults := by
  intro s x
  refine ⟨⟨(Laws.Encodes.ldVxDt x).2, ?_⟩, ⟨(Laws.Encodes.ldDtVx x).2, ?_⟩⟩
  · exact ⟨_, exec_ldVxDt x s, rfl, rfl, rfl, fun j => s.advance.reg_setReg x j s.dt⟩
  · exact ⟨_, exec_ldDtVx x s, rfl, rfl, rfl, fun _ => rfl⟩

end Sys2Proof.Machine
end

section
/-! Decoder and encoder against each other and against the opcode map (spec/30_encoding.md R43 to R48), and the six
statements of that family. The two round trips carry the rest: a row's words are exactly its instructions' encodings. -/

namespace Sys2Proof

/-! ### Decode of encode (R44, R46) -/

/-- The op nibble of the encoding picks the decoder's branch, and that branch reads the operands back field by field. -/
theorem decode_encode (i : Instr) : decode (encode i) = .ok i := by
  cases i with
  | cls | ret => rfl
  | jp | call | ldI | jpV0 => simp [decode, encode]
  | seImm | sneImm | ldImm | addImm | rnd => simp [decode, encode]
  | seReg | sneReg | drw => simp [decode, encode]
  | ldReg | orReg | andReg | xorReg | addReg | subReg | shrReg | subnReg | shlReg => simp [decode, encode, decode8]
  | skp | sknp => simp [decode, encode, decodeE]
  | ldVxDt | ldVxK | ldDtVx | ldStVx | addI | ldF | ldB | stRegs | ldRegs => simp [decode, encode, decodeF]

/-! ### A word whose fixed fields are known is built from them and its free fields -/

theorem wordNNN_of_fieldOp {w : Word} {op : Nibble} (hop : (fieldOp w).toNat = op.toNat) :
    wordNNN op (fieldNNN w) = w := by
  rw [← BitVec.eq_of_toNat_eq hop, wordNNN_fields]

theorem wordXNN_of_fieldOp {w : Word} {op : Nibble} (hop : (fieldOp w).toNat = op.toNat) :
    wordXNN op (fieldX w) (fieldNN w) = w := by
  rw [← BitVec.eq_of_toNat_eq hop, wordXNN_fields]

theorem wordXNN_of_fields {w : Word} {op : Nibble} {nn : Byte} (hop : (fieldOp w).toNat = op.toNat)
    (hnn : fieldNN w = nn) : wordXNN op (fieldX w) nn = w :=
  hnn ▸ wordXNN_of_fieldOp hop

theorem wordXYN_of_fieldOp {w : Word} {op : Nibble} (hop : (fieldOp w).toNat = op.toNat) :
    wordXYN op (fieldX w) (fieldY w) (fieldN w) = w := by
  rw [← BitVec.eq_of_toNat_eq hop, wordXYN_fields]

theorem wordXYN_of_fields {w : Word} {op n : Nibble} (hop : (fieldOp w).toNat = op.toNat)
    (hn : (fieldN w).toNat = n.toNat) : wordXYN op (fieldX w) (fieldY w) n = w :=
  BitVec.eq_of_toNat_eq hn ▸ wordXYN_of_fieldOp hop

/-! ### Encode of decode, group by group (R44, R46) -/

theorem encode_of_decode0 {w : Word} {i : Instr} (h : decode0 w = .ok i) : encode i = w := by
  unfold decode0 at h
  split_ifs at h with he0 hee
  · cases h; exact he0.symm
  · cases h; exact hee.symm

theorem encode_of_decode8 {w : Word} {i : Instr} (hop : (fieldOp w).toNat = 8)
    (h : decode8 (fieldX w) (fieldY w) (fieldN w) = .ok i) : encode i = w := by
  unfold decode8 at h
  split at h <;> cases h <;> exact wordXYN_of_fields hop ‹_›

theorem encode_of_decodeE {w : Word} {i : Instr} (hop : (fieldOp w).toNat = 14)
    (h : decodeE (fieldX w) (fieldNN w) = .ok i) : encode i = w := by
  unfold decodeE at h
  split_ifs at h with hnn hnn <;> cases h <;> exact wordXNN_of_fields hop hnn

theorem encode_of_decodeF {w : Word} {i : Instr} (hop : (fieldOp w).toNat = 15)
    (h : decodeF (fieldX w) (fieldNN w) = .ok i) : encode i = w := by
  unfold decodeF at h
  split_ifs at h with hnn hnn hnn hnn hnn hnn hnn hnn hnn <;> cases h <;> exact wordXNN_of_fields hop hnn

/-- Groups 5 and 9 ask only that the last nibble be 0. -/
theorem decodeZero_eq_ok {n : Nibble} {i₀ i : Instr} {u : Unmapped}
    (h : (if n = 0x0#4 then .ok i₀ else .error u : Except Unmapped Instr) = .ok i) : n.toNat = 0 ∧ i = i₀ := by
  split_ifs at h with hn
  cases h
  exact ⟨congrArg BitVec.toNat hn, rfl⟩

/-- One case for each value of the op nibble, from 0 to F. -/
theorem encode_of_decode {w : Word} {i : Instr} (h : decode w = .ok i) : encode i = w := by
  have hlt := (fieldOp w).isLt
  unfold decode at h
  interval_cases hop : (fieldOp w).toNat
  · exact encode_of_decode0 h
  · cases h; exact wordNNN_of_fieldOp hop
  · cases h; exact wordNNN_of_fieldOp hop
  · cases h; exact wordXNN_of_fieldOp hop
  · cases h; exact wordXNN_of_fieldOp hop
  · obtain ⟨hn, rfl⟩ := decodeZero_eq_ok h
    exact wordXYN_of_fields hop hn
  · cases h; exact wordXNN_of_fieldOp hop
  · cases h; exact wordXNN_of_fieldOp hop
  · exact encode_of_decode8 hop h
  · obtain ⟨hn, rfl⟩ := decodeZero_eq_ok h
    exact wordXYN_of_fields hop hn
  · cases h; exact wordNNN_of_fieldOp hop
  · cases h; exact wordNNN_of_fieldOp hop
  · cases h; exact wordXNN_of_fieldOp hop
  · cases h; exact wordXYN_of_fieldOp hop
  · exact encode_of_decodeE hop h
  · exact encode_of_decodeF hop h

/-! ### The rows of the opcode map (R46) -/

/-- An instruction's row is that of the sample with its constructor, whatever its operands are. -/
theorem row_mem_opcodeMap (i : Instr) : i.row ∈ opcodeMap := by
  cases i <;> simp [opcodeMap, rowSamples, Instr.row]

/-- An instruction's word, masked, keeps its row's fixed fields and no operand. -/
theorem row_matchesWord_encode (i : Instr) : i.row.matchesWord (encode i) = true := by
  refine beq_iff_eq.mpr ?_
  cases i with
  | cls | ret => rfl
  | jp nnn | call nnn | ldI nnn | jpV0 nnn => exact wordNNN_and_mask _ nnn
  | seImm x nn | sneImm x nn | ldImm x nn | addImm x nn | rnd x nn => exact wordXNN_and_maskOp _ x nn
  | drw x y n => exact wordXYN_and_maskOp _ n x y
  | seReg x y | ldReg x y | orReg x y | andReg x y | xorReg x y | addReg x y | subReg x y | shrReg x y | subnReg x y
  | shlReg x y | sneReg x y => exact wordXYN_and_mask _ _ x y
  | skp x | sknp x | ldVxDt x | ldVxK x | ldDtVx x | ldStVx x | addI x | ldF x | ldB x | stRegs x | ldRegs x =>
    exact wordXNN_and_mask _ x _

/-! A word that matches a row has the fixed fields of the row's pattern, mask by mask. -/

theorem fieldOp_of_and_maskOp {w p : Word} (h : w &&& 0xF000#16 = p) : fieldOp w = fieldOp p := by
  have hw := wordNNN_and_mask (fieldOp w) (fieldNNN w)
  rw [wordNNN_fields, h] at hw
  rw [hw, fieldOp_wordNNN]

theorem fields_of_and_maskN {w p : Word} (h : w &&& 0xF00F#16 = p) : fieldOp w = fieldOp p ∧ fieldN w = fieldN p := by
  have hw := wordXYN_and_mask (fieldOp w) (fieldN w) (fieldX w) (fieldY w)
  rw [wordXYN_fields, h] at hw
  rw [hw, fieldOp_wordXYN, fieldN_wordXYN]
  exact ⟨rfl, rfl⟩

theorem fields_of_and_maskNN {w p : Word} (h : w &&& 0xF0FF#16 = p) :
    fieldOp w = fieldOp p ∧ fieldNN w = fieldNN p := by
  have hw := wordXNN_and_mask (fieldOp w) (fieldX w) (fieldNN w)
  rw [wordXNN_fields, h] at hw
  rw [hw, fieldOp_wordXNN, fieldNN_wordXNN]
  exact ⟨rfl, rfl⟩

/-- The fixed fields of a row are all that the decoder tests on the way to that row's constructor. -/
theorem decodes_of_row_matchesWord {j : Instr} {w : Word} (h : j.row.matchesWord w = true) :
    ∃ i, decode w = .ok i := by
  have hmask : w &&& j.row.mask = j.row.pattern := beq_iff_eq.mp h
  cases j with
  | cls | ret =>
    have hw : w = _ := (BitVec.and_allOnes (x := w)).symm.trans hmask
    subst hw
    exact ⟨_, rfl⟩
  | jp | call | seImm | sneImm | ldImm | addImm | ldI | jpV0 | rnd | drw =>
    rw [decode, fieldOp_of_and_maskOp hmask]
    simp [Instr.row, fieldOp]
  | seReg | ldReg | orReg | andReg | xorReg | addReg | subReg | shrReg | subnReg | shlReg | sneReg =>
    obtain ⟨hop, hn⟩ := fields_of_and_maskN hmask
    rw [decode, hop, hn]
    simp [Instr.row, fieldOp, fieldN, decode8]
  | skp | sknp | ldVxDt | ldVxK | ldDtVx | ldStVx | addI | ldF | ldB | stRegs | ldRegs =>
    obtain ⟨hop, hnn⟩ := fields_of_and_maskNN hmask
    rw [decode, hop, hnn]
    simp [Instr.row, fieldOp, fieldNN, decodeE, decodeF]

theorem decodes_iff_matches (w : Word) : (∃ i, decode w = .ok i) ↔ ∃ r ∈ opcodeMap, r.matchesWord w = true := by
  constructor
  · rintro ⟨i, hi⟩
    exact ⟨i.row, row_mem_opcodeMap i, encode_of_decode hi ▸ row_matchesWord_encode i⟩
  · rintro ⟨r, hr, hw⟩
    obtain ⟨j, -, rfl⟩ := List.mem_map.mp hr
    exact decodes_of_row_matchesWord hw

/-- Two different rows of the map fix some common bit differently. -/
theorem opcodeMap_separated : ∀ r₁ ∈ opcodeMap, ∀ r₂ ∈ opcodeMap,
    r₁.pattern &&& r₂.mask = r₂.pattern &&& r₁.mask → r₁ = r₂ := by
  decide

/-! ### Unmapped words, group by group (R48) -/

theorem decode0_eq_error_iff {w : Word} {u : Unmapped} :
    decode0 w = .error u ↔ u = .group0 ∧ w ≠ 0x00E0 ∧ w ≠ 0x00EE := by
  unfold decode0
  split_ifs with he0 hee
  · simp [he0]
  · simp [hee]
  · simpa [he0, hee] using eq_comm

theorem decode8_eq_error_iff {x y : RegIdx} {n : Nibble} {u : Unmapped} :
    decode8 x y n = .error u ↔ u = .group8 ∧ n.toNat ∈ [0x8, 0x9, 0xA, 0xB, 0xC, 0xD, 0xF] := by
  have hlt := n.isLt
  unfold decode8
  interval_cases n.toNat <;> simp [eq_comm (a := u)]

theorem decodeE_eq_error_iff {x : RegIdx} {nn : Byte} {u : Unmapped} :
    decodeE x nn = .error u ↔ u = .groupE ∧ nn.toNat ∉ [0x9E, 0xA1] := by
  unfold decodeE
  split_ifs <;> simp_all [← BitVec.toNat_inj, eq_comm (a := u)]

theorem decodeF_eq_error_iff {x : RegIdx} {nn : Byte} {u : Unmapped} :
    decodeF x nn = .error u ↔
      u = .groupF ∧ nn.toNat ∉ [0x07, 0x0A, 0x15, 0x18, 0x1E, 0x29, 0x33, 0x55, 0x65] := by
  unfold decodeF
  split_ifs <;> simp_all [← BitVec.toNat_inj, eq_comm (a := u)]

theorem decodeZero_eq_error_iff {n : Nibble} {i : Instr} {u₀ u : Unmapped} :
    (if n = 0x0#4 then .ok i else .error u₀ : Except Unmapped Instr) = .error u ↔ u = u₀ ∧ n.toNat ≠ 0 := by
  split_ifs <;> simp_all [← BitVec.toNat_inj, eq_comm (a := u)]

/-- An unmapped word's op is one of the six that have unmapped words. -/
theorem fieldOp_of_unmappedWord {w : Word} {u : Unmapped} (h : unmappedWord w u) :
    (fieldOp w).toNat ∈ [0x0, 0x5, 0x8, 0x9, 0xE, 0xF] := by
  cases u <;> simp [h.1]

/-- The other ops reject no word. -/
theorem ok_eq_error_iff {w : Word} {i : Instr} {u : Unmapped} (hop : (fieldOp w).toNat ∉ [0x0, 0x5, 0x8, 0x9, 0xE, 0xF]) :
    (.ok i : Except Unmapped Instr) = .error u ↔ unmappedWord w u :=
  ⟨nofun, fun h => absurd (fieldOp_of_unmappedWord h) hop⟩

/-- One case for each value of the op nibble, from 0 to F. -/
theorem decode_eq_error_iff (w : Word) (u : Unmapped) : decode w = .error u ↔ unmappedWord w u := by
  have hlt := (fieldOp w).isLt
  unfold decode
  interval_cases hop : (fieldOp w).toNat
  · exact decode0_eq_error_iff.trans (by cases u <;> simp [unmappedWord, hop])
  · exact ok_eq_error_iff (by simp [hop])
  · exact ok_eq_error_iff (by simp [hop])
  · exact ok_eq_error_iff (by simp [hop])
  · exact ok_eq_error_iff (by simp [hop])
  · exact decodeZero_eq_error_iff.trans (by cases u <;> simp [unmappedWord, hop])
  · exact ok_eq_error_iff (by simp [hop])
  · exact ok_eq_error_iff (by simp [hop])
  · exact decode8_eq_error_iff.trans (by cases u <;> simp [unmappedWord, hop])
  · exact decodeZero_eq_error_iff.trans (by cases u <;> simp [unmappedWord, hop])
  · exact ok_eq_error_iff (by simp [hop])
  · exact ok_eq_error_iff (by simp [hop])
  · exact ok_eq_error_iff (by simp [hop])
  · exact ok_eq_error_iff (by simp [hop])
  · exact decodeE_eq_error_iff.trans (by cases u <;> simp [unmappedWord, hop])
  · exact decodeF_eq_error_iff.trans (by cases u <;> simp [unmappedWord, hop])

/-! ### The statements -/

/-- Settles O1: the decoder evaluates each of the words. -/
theorem sampleWordsDecode : Obligations.SampleWordsDecode := by
  unfold Obligations.SampleWordsDecode
  decide

/-- Settles O2: the op nibble of the encoding picks the decoder's branch, and that branch reads the operands back field
by field. -/
theorem decodeOfEncode : Obligations.DecodeOfEncode := decode_encode

/-- Settles O3: on each branch of the decoder the word is built from the fixed fields tested and the fields kept. -/
theorem encodeOfDecode : Obligations.EncodeOfDecode := fun _ _ => encode_of_decode

/-- Settles O4: a decoded word is its instruction's encoding, which matches that instruction's row; a word that matches
a row has the fixed fields the decoder tests. -/
theorem decodeFollowsOpcodeMap : Obligations.DecodeFollowsOpcodeMap := by
  intro w
  refine ⟨decodes_iff_matches w, fun i hi => ?_⟩
  rw [← encode_of_decode hi]
  exact row_matchesWord_encode i

/-- Settles O5: the word gives both rows the same bits under both masks, and there two different rows differ. -/
theorem opcodeRowsDisjoint : Obligations.OpcodeRowsDisjoint := by
  intro w r₁ hr₁ r₂ hr₂ h₁ h₂
  have hp₁ : w &&& r₁.mask = r₁.pattern := beq_iff_eq.mp h₁
  have hp₂ : w &&& r₂.mask = r₂.pattern := beq_iff_eq.mp h₂
  refine opcodeMap_separated r₁ hr₁ r₂ hr₂ ?_
  calc r₁.pattern &&& r₂.mask = w &&& r₁.mask &&& r₂.mask := by rw [hp₁]
    _ = w &&& r₂.mask &&& r₁.mask := by rw [BitVec.and_assoc, BitVec.and_comm r₁.mask, ← BitVec.and_assoc]
    _ = r₂.pattern &&& r₁.mask := by rw [hp₂]

/-- Settles O6: each branch of the decoder rejects exactly the words of its own space. -/
theorem unmappedWordsAreThoseListed : Obligations.UnmappedWordsAreThoseListed := decode_eq_error_iff

end Sys2Proof
end

section
/-! What `exec` does over all instructions, said once: when an instruction traps and what it leaves when it does not
(spec/40_cycle.md R55, R58), and the statements on the outcome and the faults of a step that follow. -/

namespace Sys2Proof.Machine

/-! ### The outcome of an instruction -/

/-- The trap of an access to `n` bytes from `I` up: the first address above 0xFFF (R101). -/
def State.accessTrap (s : State) (n : Nat) : Option Trap :=
  if n = 0 ∨ s.base + n ≤ Config.memSize then none else some (outOfBounds (max s.base Config.memSize))

/-- The trap an instruction raises in `s`, if it raises one (R106). `exec_eq` ties it to `exec`. -/
def trap (s : State) : Instr → Option Trap
  | .call _ => if s.stack.length < Config.stackCap then none else some ⟨.stackOverflow, none⟩
  | .ret => if s.stack = [] then some ⟨.stackUnderflow, none⟩ else none
  | .drw _ _ n => s.accessTrap n.toNat
  | .ldB _ => s.accessTrap 3
  | .stRegs x | .ldRegs x => s.accessTrap (x.val + 1)
  | _ => none

/-- What an instruction that does not trap leaves (R62 to R105). `exec_eq` ties it to `exec`. -/
def effect (s : State) : Instr → State
  | .cls => (s.advance.setFb Framebuffer.blank).setDirty true
  | .ret => (s.advance.setStack s.stack.dropLast).setPc (s.stack.getLast?.getD 0)
  | .jp nnn => s.advance.setPc (zext nnn)
  | .call nnn => (s.advance.setStack (s.stack ++ [s.pc + 2])).setPc (zext nnn)
  | .seImm x nn => s.advance.skipIf (s.reg x == nn)
  | .sneImm x nn => s.advance.skipIf (s.reg x != nn)
  | .seReg x y => s.advance.skipIf (s.reg x == s.reg y)
  | .ldImm x nn => s.advance.setReg x nn
  | .addImm x nn => s.advance.setReg x (sumByte (s.reg x) nn)
  | .ldReg x y => s.advance.setReg x (s.reg y)
  | .orReg x y => s.advance.setReg x (s.reg x ||| s.reg y)
  | .andReg x y => s.advance.setReg x (s.reg x &&& s.reg y)
  | .xorReg x y => s.advance.setReg x (s.reg x ^^^ s.reg y)
  | .addReg x y => s.advance.resultThenFlag x (sumByte (s.reg x) (s.reg y)) (carryOut (s.reg x) (s.reg y))
  | .subReg x y => s.advance.flagThenResult x (diffByte (s.reg x) (s.reg y)) (noBorrow (s.reg x) (s.reg y))
  | .shrReg x _ => s.advance.flagThenResult x (shrByte (s.reg x)) (shrOut (s.reg x))
  | .subnReg x y => s.advance.flagThenResult x (diffByte (s.reg y) (s.reg x)) (noBorrow (s.reg y) (s.reg x))
  | .shlReg x _ => s.advance.flagThenResult x (shlByte (s.reg x)) (shlOut (s.reg x))
  | .sneReg x y => s.advance.skipIf (s.reg x != s.reg y)
  | .ldI nnn => s.advance.setI (zext nnn)
  | .jpV0 nnn => s.advance.setPc (zext nnn + byteWord (s.reg 0))
  | .rnd x nn => (s.advance.setReg x (Config.rand s.draws &&& nn)).setDraws (s.draws + 1)
  | .drw x y n => drawRows s x y (bytesAt s.mem s.base n.toNat)
  | .skp x => s.advance.skipIf (s.pressed (s.reg x))
  | .sknp x => s.advance.skipIf (!s.pressed (s.reg x))
  | .ldVxDt x => s.advance.setReg x s.dt
  | .ldVxK x => s.advance.setWait (some x)
  | .ldDtVx x => s.advance.setDt (s.reg x)
  | .ldStVx x => s.advance.setSt (s.reg x)
  | .addI x => s.advance.setI (s.i + byteWord (s.reg x))
  | .ldF x => s.advance.setI (glyphAddr (s.reg x))
  | .ldB x => s.advance.setMem (s.mem.writeAll s.base (decimalDigits (s.reg x)))
  | .stRegs x => s.advance.setMem (s.mem.writeAll s.base (s.regsUpTo x))
  | .ldRegs x => s.advance.setV (loadRegs s.v 0 (bytesAt s.mem s.base (x.val + 1)))

theorem State.regsUpTo_ne_nil (s : State) (x : RegIdx) : s.regsUpTo x ≠ [] := by
  intro h
  simpa [h] using s.regsUpTo_length x

theorem exec_stRegs_eq (x : RegIdx) (s : State) :
    exec (.stRegs x) s = if s.base + (x.val + 1) ≤ Config.memSize
      then .next (s.advance.setMem (s.mem.writeAll s.base (s.regsUpTo x)))
      else .next (takeFault s (some (encode (.stRegs x))) (outOfBounds (max s.base Config.memSize))) := by
  have hexec : exec (.stRegs x) s = storeAtI (.stRegs x) (s.regsUpTo x) s := rfl
  simp only [hexec, storeAtI_eq, s.regsUpTo_ne_nil x, false_or, State.regsUpTo_length]

theorem State.accessTrap_elim {α : Type} (s : State) (n : Nat) (ok : α) (bad : Trap → α) :
    (s.accessTrap n).elim ok bad =
      if n = 0 ∨ s.base + n ≤ Config.memSize then ok else bad (outOfBounds (max s.base Config.memSize)) := by
  unfold State.accessTrap
  split_ifs <;> rfl

theorem State.accessTrap_succ_elim {α : Type} (s : State) (n : Nat) (ok : α) (bad : Trap → α) :
    (s.accessTrap (n + 1)).elim ok bad =
      if s.base + (n + 1) ≤ Config.memSize then ok else bad (outOfBounds (max s.base Config.memSize)) := by
  simp only [State.accessTrap_elim, Nat.add_one_ne_zero, false_or]

/-- An instruction either completes or enters its fault, and never stops the machine (log 4). -/
theorem exec_eq (i : Instr) (s : State) :
    exec i s = .next ((trap s i).elim (effect s i) (takeFault s (some (encode i)))) := by
  cases i with
  | call nnn =>
    rw [trap, apply_ite (Option.elim · _ _), apply_ite Host.Outcome.next]
    exact execCall_eq nnn s
  | ret =>
    rcases List.eq_nil_or_concat s.stack with hnil | ⟨l, w, happ⟩
    · rw [exec_ret_of_nil hnil]
      simp [trap, hnil]
    · rw [List.concat_eq_append] at happ
      rw [exec_ret_of_append happ]
      simp [trap, effect, happ]
  | drw x y n =>
    rw [trap, State.accessTrap_elim, apply_ite Host.Outcome.next]
    exact execDrw_eq x y n s
  | ldB x =>
    rw [trap, State.accessTrap_succ_elim s 2, apply_ite Host.Outcome.next]
    exact exec_ldB_eq x s
  | stRegs x =>
    rw [trap, State.accessTrap_succ_elim, apply_ite Host.Outcome.next]
    exact exec_stRegs_eq x s
  | ldRegs x =>
    rw [trap, State.accessTrap_succ_elim, apply_ite Host.Outcome.next]
    exact execLdRegs_eq x s
  | _ => rfl

theorem exec_of_trap_none {i : Instr} {s : State} (h : trap s i = none) : exec i s = .next (effect s i) := by
  rw [exec_eq, h, Option.elim_none]

theorem exec_of_trap_some {i : Instr} {s : State} {e : Trap} (h : trap s i = some e) :
    exec i s = .next (takeFault s (some (encode i)) e) := by
  rw [exec_eq, h, Option.elim_some]

/-- What an instruction can do: complete, or enter the fault of its trap. -/
theorem exec_cases {i : Instr} {s t : State} (h : exec i s = .next t) :
    (trap s i = none ∧ t = effect s i) ∨ ∃ e, trap s i = some e ∧ t = takeFault s (some (encode i)) e := by
  cases htrap : trap s i with
  | none =>
    rw [exec_of_trap_none htrap] at h
    exact .inl ⟨rfl, (Host.Outcome.next.inj h).symm⟩
  | some e =>
    rw [exec_of_trap_some htrap] at h
    exact .inr ⟨e, rfl, (Host.Outcome.next.inj h).symm⟩

/-! ### The causes of a fault -/

/-- An instruction that completes leaves the fault record as it was. -/
theorem effect_fault (s : State) (i : Instr) : (effect s i).fault = s.fault := by
  cases i with
  | seImm | sneImm | seReg | sneReg | skp | sknp => exact State.skipIf_fault _ _
  | _ => rfl

theorem State.accessTrap_eq_some {s : State} {n : Nat} {e : Trap} (h : s.accessTrap n = some e) :
    ∃ a, e = outOfBounds a ∧ 0xFFF < a := by
  unfold State.accessTrap at h
  split_ifs at h
  cases h
  exact ⟨_, rfl, lt_max_of_lt_right (by decide)⟩

/-- The three causes of a trap (R106). -/
theorem trap_eq_some {i : Instr} {s : State} {e : Trap} (h : trap s i = some e) :
    (∃ a, e = outOfBounds a ∧ 0xFFF < a) ∨
    (e = ⟨.stackOverflow, none⟩ ∧ 16 ≤ s.stack.length ∧ ∃ nnn, i = .call nnn) ∨
    (e = ⟨.stackUnderflow, none⟩ ∧ s.stack = [] ∧ i = .ret) := by
  cases i with
  | call nnn =>
    rw [trap] at h
    split_ifs at h with hroom
    cases h
    exact .inr (.inl ⟨rfl, not_lt.mp hroom, nnn, rfl⟩)
  | ret =>
    rw [trap] at h
    split_ifs at h with hempty
    cases h
    exact .inr (.inr ⟨rfl, hempty, rfl⟩)
  | drw | ldB | stRegs | ldRegs => exact .inl (State.accessTrap_eq_some h)
  | _ => cases h

/-! ### The outcome of a step -/

/-- A step answers a next state on each of its branches (log 4). -/
theorem step_next (s : State) : ∃ t, step s = .next t := by
  unfold step
  split
  · split
    · exact ⟨_, rfl⟩
    · split
      · exact ⟨_, exec_eq _ s⟩
      · exact ⟨_, rfl⟩
  · exact ⟨_, rfl⟩

theorem step_of_decode {s : State} {w : Word} {i : Instr} (hrun : s.isRunning = true) (hfetch : s.fetch = .ok w)
    (hdecode : decode w = .ok i) : step s = exec i s := by
  simp [step, hrun, hfetch, hdecode]

theorem step_of_fetch_error {s : State} {e : Trap} (hrun : s.isRunning = true) (hfetch : s.fetch = .error e) :
    step s = .next (takeFault s none e) := by
  simp [step, hrun, hfetch, execFetchFault]

theorem State.fetch_of_le {s : State} (h : s.pc.toNat + 1 ≤ 0xFFF) :
    s.fetch = .ok (wordOfBytes (s.mem.read s.pc.toNat) (s.mem.read (s.pc.toNat + 1))) :=
  s.fetch_eq.trans (if_pos (Nat.lt_succ_of_le h))

theorem State.fetch_of_lt {s : State} (h : 0xFFE < s.pc.toNat) :
    s.fetch = .error (outOfBounds (max s.pc.toNat Config.memSize)) :=
  s.fetch_eq.trans (if_neg (not_lt.mpr (Nat.succ_le_succ h)))

/-- A fault that a step latches is that of its fetch or of its instruction's trap, entered in the state the step began
with (R58). -/
theorem step_fault_cases {s t : State} (hrun : s.isRunning = true) (hstep : step s = .next t) (hfault : t.fault ≠ none) :
    (∃ e, s.fetch = .error e ∧ t = takeFault s none e) ∨
    ∃ i e, s.fetch = .ok (encode i) ∧ trap s i = some e ∧ t = takeFault s (some (encode i)) e := by
  obtain ⟨-, hnone, -⟩ := s.isRunning_iff.mp hrun
  rcases step_cases hstep with ⟨hidle, -⟩ | ⟨-, e, he, rfl⟩ | ⟨-, w, u, -, -, rfl⟩ | ⟨-, w, i, hw, hi, hexec⟩
  · simp [hrun] at hidle
  · exact .inl ⟨e, he, rfl⟩
  · exact absurd hnone hfault
  · rw [← encode_of_decode hi] at hw
    rcases exec_cases hexec with ⟨-, rfl⟩ | ⟨e, htrap, rfl⟩
    · exact absurd ((effect_fault s i).trans hnone) hfault
    · exact .inr ⟨i, e, hw, htrap, rfl⟩

/-! ### The statements -/

/-- Settles O7: behind the open gate the step fetches the two bytes, high byte first, and runs what they decode to. -/
theorem stepRunsDecodedInstr : Obligations.StepRunsDecodedInstr := by
  intro s i hpaused hfault hwait hpc hdecode
  exact step_of_decode (s.isRunning_iff.mpr ⟨hpaused, hfault, hwait⟩) (State.fetch_of_le hpc) hdecode

/-- Settles O10: above 0xFFE the fetch faults at max(PC, 0x1000), which is the address recorded. -/
theorem fetchFaultRecorded : Obligations.FetchFaultRecorded := by
  intro s hrun hpc
  have haddr : max s.pc.toNat Config.memSize = if s.pc.toNat = 0xFFF then 0x1000 else s.pc.toNat := by
    unfold Config.memSize
    split_ifs <;> omega
  rw [step_of_fetch_error hrun (State.fetch_of_lt hpc), takeFault_eq, haddr, outOfBounds]

/-- Settles O12: every branch of the step answers a next state. -/
theorem stepAlwaysAnswersNext : Obligations.StepAlwaysAnswersNext := step_next

/-- Settles O13: the fetch's and the instruction's fault are both entered in the state the step began with, and the
word recorded, the instruction's encoding, is the word fetched. -/
theorem faultsArePrecise : Obligations.FaultsArePrecise := by
  intro s t hrun hstep hfault
  rcases step_fault_cases hrun hstep hfault with ⟨e, hfetch, rfl⟩ | ⟨i, e, hfetch, -, rfl⟩
  · exact ⟨_, takeFault_eq s none e, rfl, .inl ⟨⟨e, hfetch⟩, rfl⟩⟩
  · exact ⟨_, takeFault_eq s _ e, rfl, .inr ⟨encode i, hfetch, rfl⟩⟩

/-- Settles O14: a fetch faults only out of bounds, and an instruction's trap has one of three causes. -/
theorem stepFaultCauses : Obligations.StepFaultCauses := by
  intro s t r hrun hstep hr
  have hfault : t.fault ≠ none := by simp [hr]
  rcases step_fault_cases hrun hstep hfault with ⟨e, hfetch, rfl⟩ | ⟨i, e, hfetch, htrap, rfl⟩
  · cases hr
    rw [State.fetch_eq] at hfetch
    split_ifs at hfetch
    cases hfetch
    exact .inl ⟨rfl, _, rfl, lt_max_of_lt_right (by decide)⟩
  · cases hr
    rcases trap_eq_some htrap with ⟨a, rfl, ha⟩ | ⟨rfl, hfull, nnn, rfl⟩ | ⟨rfl, hempty, rfl⟩
    · exact .inl ⟨rfl, a, rfl, ha⟩
    · exact .inr (.inl ⟨rfl, rfl, hfull, nnn, hfetch⟩)
    · exact .inr (.inr ⟨rfl, rfl, hempty, hfetch⟩)

/-- Settles O53: what step() returns is read off the gate and the fault record of the state it leaves. -/
theorem stepResultReported : Obligations.StepResultReported := by
  intro s
  refine ⟨fun hidle => ?_, fun hrun => ?_⟩
  · rw [Transaction.apply_step, stepResult_of_not_running hidle, stepState_of_next (step_of_not_running hidle)]
  · obtain ⟨t, ht⟩ := step_next s
    rw [Transaction.apply_step, stepState_of_next ht]
    refine ⟨t, ht, rfl, fun r hr => ?_, fun hnone => ?_⟩
    · simp [stepResult, hrun, stepState_of_next ht, hr]
    · simp [stepResult, hrun, stepState_of_next ht, hnone]

end Sys2Proof.Machine
end

section
/-! What each instruction may write (spec/00_scope.md R11): the frame statements and the two whole-machine rules. -/

namespace Sys2Proof.Machine

/-! ### What each named write leaves unchanged -/

namespace Footprint.Unchanged

variable {f : Footprint} {s t : State}

theorem refl (f : Footprint) (s : State) : f.Unchanged s s where
  regs _ _ := rfl
  i _ := rfl
  pc _ := rfl
  stack _ := rfl
  mem _ _ := rfl
  font := rfl
  fb _ := rfl
  keys := rfl
  wait _ := rfl
  dt _ := rfl
  st _ := rfl
  paused := rfl
  fault _ := rfl
  dirty _ := rfl
  draws _ := rfl

theorem setReg (h : f.Unchanged s t) (b : Byte) {k : RegIdx} (hk : f.regs k = true) : f.Unchanged s (t.setReg k b) :=
  { h with
    regs := fun j hj => by
      have hne : j ≠ k := fun hjk => by simp [hjk, hk] at hj
      rw [State.reg_setReg_ne t k j b hne, h.regs j hj] }

theorem setFlag (h : f.Unchanged s t) (b : Bool) (hvf : f.regs vf = true) : f.Unchanged s (t.setFlag b) :=
  h.setReg (flagByte b) hvf

theorem setI (h : f.Unchanged s t) (w : Word) (hi : f.i = true) : f.Unchanged s (t.setI w) :=
  { h with i := fun hf => by simp [hi] at hf }

theorem setPc (h : f.Unchanged s t) (w : Word) (hpc : f.pc = true) : f.Unchanged s (t.setPc w) :=
  { h with pc := fun hf => by simp [hpc] at hf }

theorem advance (h : f.Unchanged s t) (hpc : f.pc = true) : f.Unchanged s t.advance := h.setPc (t.pc + 2) hpc

theorem skipIf (h : f.Unchanged s t) (c : Bool) (hpc : f.pc = true) : f.Unchanged s (t.skipIf c) := by
  cases c with
  | false => exact h
  | true => exact h.advance hpc

theorem setStack (h : f.Unchanged s t) (l : List Word) (hst : f.stack = true) : f.Unchanged s (t.setStack l) :=
  { h with stack := fun hf => by simp [hst] at hf }

theorem setFb (h : f.Unchanged s t) (g : Framebuffer) (hfb : f.fb = true) : f.Unchanged s (t.setFb g) :=
  { h with fb := fun hf => by simp [hfb] at hf }

theorem setWait (h : f.Unchanged s t) (w : Option RegIdx) (hw : f.wait = true) : f.Unchanged s (t.setWait w) :=
  { h with wait := fun hf => by simp [hw] at hf }

theorem setDt (h : f.Unchanged s t) (b : Byte) (hdt : f.dt = true) : f.Unchanged s (t.setDt b) :=
  { h with dt := fun hf => by simp [hdt] at hf }

theorem setSt (h : f.Unchanged s t) (b : Byte) (hst : f.st = true) : f.Unchanged s (t.setSt b) :=
  { h with st := fun hf => by simp [hst] at hf }

theorem setFault (h : f.Unchanged s t) (r : Option FaultRecord) (hfault : f.fault = true) :
    f.Unchanged s (t.setFault r) :=
  { h with fault := fun hf => by simp [hfault] at hf }

theorem setDirty (h : f.Unchanged s t) (b : Bool) (hd : f.dirty = true) : f.Unchanged s (t.setDirty b) :=
  { h with dirty := fun hf => by simp [hd] at hf }

theorem setDraws (h : f.Unchanged s t) (k : Nat) (hd : f.draws = true) : f.Unchanged s (t.setDraws k) :=
  { h with draws := fun hf => by simp [hd] at hf }

/-- Bytes stored from `a` up, all of them in the footprint. -/
theorem writeAll (h : f.Unchanged s t) (a : Nat) (bs : List Byte)
    (hbs : ∀ b, a ≤ b → b < a + bs.length → f.mem b = true) : f.Unchanged s (t.setMem (t.mem.writeAll a bs)) :=
  { h with
    mem := fun b hb => by
      have hout : b < a ∨ a + bs.length ≤ b := by
        by_contra hin
        have htrue := hbs b (by omega) (by omega)
        simp [hb] at htrue
      exact (Memory.read_writeAll_outside t.mem a bs b hout).trans (h.mem b hb)
    font := (Memory.writeAll_font t.mem a bs).trans h.font }

/-- Bytes loaded to the registers from `V[0]` up, all of them in the footprint. -/
theorem loadRegs (h : f.Unchanged s t) (bs : List Byte) (hbs : ∀ j, j.val < bs.length → f.regs j = true) :
    f.Unchanged s (t.setV (loadRegs t.v 0 bs)) :=
  { h with
    regs := fun j hj => by
      have hout : ¬(0 ≤ j.val ∧ j.val < 0 + bs.length) := by
        rintro ⟨-, hin⟩
        have htrue := hbs j (by omega)
        simp [hj] at htrue
      exact (loadRegs_getElem t.v 0 bs j).trans ((dif_neg hout).trans (h.regs j hj)) }

end Footprint.Unchanged

/-! ### The footprint of every instruction -/

/-- What an instruction may write (R14; decision D11, log 9). -/
def footprint (s : State) : Instr → Footprint
  | .ldImm x _ | .addImm x _ | .ldReg x _ | .orReg x _ | .andReg x _ | .xorReg x _ | .ldVxDt x =>
    { regs := fun j => j == x, pc := true }
  | .addReg x _ | .subReg x _ | .shrReg x _ | .subnReg x _ | .shlReg x _ =>
    { regs := fun j => j == x || j == 0xF, pc := true }
  | .rnd x _ => { regs := fun j => j == x, pc := true, draws := true }
  | .jp _ | .jpV0 _ | .seImm _ _ | .sneImm _ _ | .seReg _ _ | .sneReg _ _ | .skp _ | .sknp _ => { pc := true }
  | .call _ | .ret => { pc := true, stack := true, fault := true }
  | .ldI _ | .addI _ | .ldF _ => { i := true, pc := true }
  | .ldDtVx _ => { dt := true, pc := true }
  | .ldStVx _ => { st := true, pc := true }
  | .ldVxK _ => { wait := true, pc := true }
  | .ldB _ => { mem := fun a => decide (s.base ≤ a ∧ a < s.base + 3), pc := true, fault := true }
  | .stRegs x => { mem := fun a => decide (s.base ≤ a ∧ a < s.base + (x.val + 1)), pc := true, fault := true }
  | .ldRegs x => { regs := fun j => decide (j.val ≤ x.val), pc := true, fault := true }
  | .cls => { fb := true, dirty := true, pc := true }
  | .drw _ _ _ => { regs := fun j => j == 0xF, fb := true, dirty := true, pc := true, fault := true }

theorem footprint_pc (s : State) (i : Instr) : (footprint s i).pc = true := by
  cases i <;> rfl

/-- Only an instruction whose footprint holds the fault record traps. -/
theorem footprint_fault_of_trap {i : Instr} {s : State} {e : Trap} (h : trap s i = some e) :
    (footprint s i).fault = true := by
  cases i with
  | call | ret | drw | ldB | stRegs | ldRegs => rfl
  | _ => cases h

theorem effect_unchanged (s : State) (i : Instr) : (footprint s i).Unchanged s (effect s i) := by
  have hadv : (footprint s i).Unchanged s s.advance := (Footprint.Unchanged.refl _ s).advance (footprint_pc s i)
  cases i with
  | ldImm | addImm | ldReg | orReg | andReg | xorReg | ldVxDt => exact hadv.setReg _ (by simp [footprint])
  | addReg => exact (hadv.setReg _ (by simp [footprint])).setFlag _ (by simp [footprint])
  | subReg | shrReg | subnReg | shlReg => exact (hadv.setFlag _ (by simp [footprint])).setReg _ (by simp [footprint])
  | rnd => exact (hadv.setReg _ (by simp [footprint])).setDraws _ rfl
  | jp | jpV0 => exact hadv.setPc _ rfl
  | seImm | sneImm | seReg | sneReg | skp | sknp => exact hadv.skipIf _ rfl
  | call | ret => exact (hadv.setStack _ rfl).setPc _ rfl
  | ldI | addI | ldF => exact hadv.setI _ rfl
  | ldDtVx => exact hadv.setDt _ rfl
  | ldStVx => exact hadv.setSt _ rfl
  | ldVxK => exact hadv.setWait _ rfl
  | ldB => exact hadv.writeAll _ _ fun b hlo hhi => decide_eq_true ⟨hlo, hhi⟩
  | stRegs => exact hadv.writeAll _ _ fun b hlo hhi => decide_eq_true ⟨hlo, by rwa [State.regsUpTo_length] at hhi⟩
  | ldRegs =>
    exact hadv.loadRegs _ fun j hj => decide_eq_true (Nat.lt_succ_iff.mp (by rwa [bytesAt_length] at hj))
  | cls => exact (hadv.setFb _ rfl).setDirty _ rfl
  | drw => exact ((hadv.setFb _ rfl).setDirty _ rfl).setFlag _ rfl

/-- The frame rule R11 for every instruction, whether it completes or faults. -/
theorem exec_unchanged {i : Instr} {s t : State} (h : exec i s = .next t) : (footprint s i).Unchanged s t := by
  rcases exec_cases h with ⟨-, rfl⟩ | ⟨e, htrap, rfl⟩
  · exact effect_unchanged s i
  · exact (Footprint.Unchanged.refl _ s).setFault _ (footprint_fault_of_trap htrap)

/-- Memory as a whole, not only byte by byte. -/
theorem exec_mem_eq_or {i : Instr} {s t : State} (h : exec i s = .next t) :
    t.mem = s.mem ∨ (∃ x, i = .ldB x) ∨ ∃ x, i = .stRegs x := by
  rcases exec_cases h with ⟨-, rfl⟩ | ⟨e, -, rfl⟩
  · cases i with
    | ldB x => exact .inr (.inl ⟨x, rfl⟩)
    | stRegs x => exact .inr (.inr ⟨x, rfl⟩)
    | seImm | sneImm | seReg | sneReg | skp | sknp => exact .inl (State.skipIf_mem _ _)
    | _ => exact .inl rfl
  · exact .inl rfl

/-! ### Which footprints hold an element -/

theorem footprint_i {s : State} {i : Instr} (h : (footprint s i).i = true) :
    (∃ nnn, i = .ldI nnn) ∨ (∃ x, i = .addI x) ∨ ∃ x, i = .ldF x := by
  cases i with
  | ldI nnn => exact .inl ⟨nnn, rfl⟩
  | addI x => exact .inr (.inl ⟨x, rfl⟩)
  | ldF x => exact .inr (.inr ⟨x, rfl⟩)
  | _ => exact absurd h Bool.false_ne_true

theorem footprint_stack {s : State} {i : Instr} (h : (footprint s i).stack = true) : (∃ nnn, i = .call nnn) ∨ i = .ret := by
  cases i with
  | call nnn => exact .inl ⟨nnn, rfl⟩
  | ret => exact .inr rfl
  | _ => exact absurd h Bool.false_ne_true

theorem footprint_fb {s : State} {i : Instr} (h : (footprint s i).fb = true) : i = .cls ∨ ∃ x y n, i = .drw x y n := by
  cases i with
  | cls => exact .inl rfl
  | drw x y n => exact .inr ⟨x, y, n, rfl⟩
  | _ => exact absurd h Bool.false_ne_true

theorem footprint_dirty_eq_fb (s : State) (i : Instr) : (footprint s i).dirty = (footprint s i).fb := by
  cases i <;> rfl

theorem footprint_dt {s : State} {i : Instr} (h : (footprint s i).dt = true) : ∃ x, i = .ldDtVx x := by
  cases i with
  | ldDtVx x => exact ⟨x, rfl⟩
  | _ => exact absurd h Bool.false_ne_true

theorem footprint_st {s : State} {i : Instr} (h : (footprint s i).st = true) : ∃ x, i = .ldStVx x := by
  cases i with
  | ldStVx x => exact ⟨x, rfl⟩
  | _ => exact absurd h Bool.false_ne_true

theorem footprint_wait {s : State} {i : Instr} (h : (footprint s i).wait = true) : ∃ x, i = .ldVxK x := by
  cases i with
  | ldVxK x => exact ⟨x, rfl⟩
  | _ => exact absurd h Bool.false_ne_true

/-- VF is in the footprint of the six flag writers, and of an instruction whose destinations include register F (R16). -/
theorem footprint_vf {s : State} {i : Instr} (h : (footprint s i).regs 0xF = true) :
    (∃ x y, i = .addReg x y ∨ i = .subReg x y ∨ i = .shrReg x y ∨ i = .subnReg x y ∨ i = .shlReg x y) ∨
    (∃ x y n, i = .drw x y n) ∨
    (∃ y nn, i = .ldImm 0xF nn ∨ i = .addImm 0xF nn ∨ i = .rnd 0xF nn ∨ i = .ldReg 0xF y ∨ i = .orReg 0xF y ∨
      i = .andReg 0xF y ∨ i = .xorReg 0xF y ∨ i = .ldVxDt 0xF ∨ i = .ldRegs 0xF) := by
  cases i with
  | addReg x y | subReg x y | shrReg x y | subnReg x y | shlReg x y => exact .inl ⟨x, y, by simp⟩
  | drw x y n => exact .inr (.inl ⟨x, y, n, rfl⟩)
  | ldImm x nn | addImm x nn | rnd x nn =>
    have hx : 0xF = x := eq_of_beq h
    exact .inr (.inr ⟨0, nn, by simp [← hx]⟩)
  | ldReg x y | orReg x y | andReg x y | xorReg x y =>
    have hx : 0xF = x := eq_of_beq h
    exact .inr (.inr ⟨y, 0, by simp [← hx]⟩)
  | ldVxDt x =>
    have hx : 0xF = x := eq_of_beq h
    exact .inr (.inr ⟨0, 0, by simp [← hx]⟩)
  | ldRegs x =>
    have hle : (0xF : RegIdx).val ≤ x.val := of_decide_eq_true h
    have hx : x = 0xF := le_antisymm (Fin.le_last x) hle
    exact .inr (.inr ⟨0, 0, by simp [hx]⟩)
  | _ => exact absurd h Bool.false_ne_true

/-! ### The statements -/

/-- Settles O54: each group shares one footprint, the one stated, and `exec_unchanged` holds over it. -/
theorem registerInstrFrames : Obligations.RegisterInstrFrames := by
  intro s t x y nn
  refine ⟨?_, ?_, exec_unchanged⟩
  · rintro (h | h | h | h | h | h | h) <;> exact exec_unchanged h
  · rintro (h | h | h | h | h) <;> exact exec_unchanged h

/-- Settles O55: the footprint of the jumps and skips is PC; that of call and return holds stack and record besides. -/
theorem controlInstrFrames : Obligations.ControlInstrFrames := by
  intro s t x y nn nnn
  refine ⟨?_, ?_⟩
  · rintro (h | h | h | h | h | h | h | h) <;> exact exec_unchanged h
  · rintro (h | h) <;> exact exec_unchanged h

/-- Settles O56: besides PC each footprint holds the one element written: I, DT, ST or WAIT. -/
theorem indexAndTimerInstrFrames : Obligations.IndexAndTimerInstrFrames := by
  intro s t x nnn
  refine ⟨?_, exec_unchanged, exec_unchanged, exec_unchanged⟩
  rintro (h | h | h) <;> exact exec_unchanged h

/-- Settles O57: the footprint of a store is its bytes and that of the load its registers, with PC and the record. -/
theorem memoryInstrFrames : Obligations.MemoryInstrFrames := by
  intro s t x
  exact ⟨exec_unchanged, exec_unchanged, exec_unchanged⟩

/-- Settles O58: the footprints are the grid, DIRTY and PC, and for the draw VF and the record besides. -/
theorem displayInstrFrames : Obligations.DisplayInstrFrames := by
  intro s t x y n
  exact ⟨exec_unchanged, exec_unchanged⟩

/-- Settles O59: an element that changed stands in the footprint, and the footprints that hold it are those of the
instructions named; memory changes as a whole only under the two that store. -/
theorem writersOfEachElement : Obligations.WritersOfEachElement := by
  intro i s t h
  have hu := exec_unchanged h
  refine ⟨fun hi => ?_, fun hstack => ?_, (exec_mem_eq_or h).resolve_left, ?_, fun hdt => ?_, fun hst => ?_,
    fun hwait => ?_, hu.keys, hu.paused, hu.font⟩
  · exact footprint_i (Bool.eq_true_of_not_eq_false (mt hu.i hi))
  · exact footprint_stack (Bool.eq_true_of_not_eq_false (mt hu.stack hstack))
  · rintro (hfb | hdirty)
    · exact footprint_fb (Bool.eq_true_of_not_eq_false (mt hu.fb hfb))
    · exact footprint_fb ((footprint_dirty_eq_fb s i).symm.trans (Bool.eq_true_of_not_eq_false (mt hu.dirty hdirty)))
  · exact footprint_dt (Bool.eq_true_of_not_eq_false (mt hu.dt hdt))
  · exact footprint_st (Bool.eq_true_of_not_eq_false (mt hu.st hst))
  · exact footprint_wait (Bool.eq_true_of_not_eq_false (mt hu.wait hwait))

/-- Settles O60: if VF changed it stands in the footprint. -/
theorem flagWritersOnly : Obligations.FlagWritersOnly := by
  intro i s t h hvf
  exact footprint_vf (Bool.eq_true_of_not_eq_false (mt ((exec_unchanged h).regs 0xF) hvf))

end Sys2Proof.Machine
end

section
/-! The invariant of the machine at reset, under every step and under every host transaction (spec/10_state.md R18, R19,
R25; spec/60_exceptions.md R121, R122), and the three statements of that family. -/

namespace Sys2Proof.Machine

/-! ### The invariant and the named writes -/

/-- The invariant speaks of five elements only; a wait may also be cleared. -/
theorem State.Inv.congr {s t : State} (h : s.Inv) (hstack : t.stack = s.stack) (hpc : t.pc = s.pc) (hmem : t.mem = s.mem)
    (hfault : t.fault = s.fault) (hwait : t.wait = s.wait ∨ t.wait = none) : t.Inv where
  stackBounded := by rw [State.stackBounded, hstack]; exact h.stackBounded
  returnsBounded := by rw [State.returnsBounded, hstack]; exact h.returnsBounded
  pcBounded := by rw [State.pcBounded, hpc]; exact h.pcBounded
  latchesExclusive := by
    rcases hwait with hw | hw
    · rw [State.latchesExclusive, hw, hfault]; exact h.latchesExclusive
    · exact .inl (by rw [hw]; rfl)
  faultAtPc := by rw [State.faultAtPc, hfault, hpc]; exact h.faultAtPc
  memWf := by rw [hmem]; exact h.memWf

/-- Fault entry of a machine that waits for no key (R25, R58). -/
theorem State.Inv.takeFault {s : State} (h : s.Inv) (hwait : s.wait = none) (w : Option Word) (e : Trap) :
    (takeFault s w e).Inv where
  stackBounded := h.stackBounded
  returnsBounded := h.returnsBounded
  pcBounded := h.pcBounded
  latchesExclusive := .inl (by rw [takeFault_wait, hwait]; rfl)
  faultAtPc := fun r hr => by cases hr; rfl
  memWf := h.memWf

theorem construct_inv (font : Font) : (State.construct font).Inv where
  stackBounded := Nat.zero_le _
  returnsBounded := fun _ hw => by cases hw
  pcBounded := show (0x200 : Nat) ≤ 0x10FE by decide
  latchesExclusive := .inl rfl
  faultAtPc := fun _ hr => by cases hr
  memWf := rfl

/-! ### What an instruction that completes does to stack, PC and memory -/

/-- An entry is pushed, the top is popped, or the stack stays. -/
theorem effect_stack (s : State) (i : Instr) :
    (effect s i).stack = s.stack ∨ (effect s i).stack = s.stack.dropLast ∨
      (∃ nnn, i = .call nnn) ∧ (effect s i).stack = s.stack ++ [s.pc + 2] := by
  cases i with
  | ret => exact .inr (.inl rfl)
  | call nnn => exact .inr (.inr ⟨⟨nnn, rfl⟩, rfl⟩)
  | seImm | sneImm | seReg | sneReg | skp | sknp => exact .inl (State.skipIf_stack _ _)
  | _ => exact .inl rfl

theorem stack_length_of_call {s : State} {nnn : Addr12} (h : trap s (.call nnn) = none) :
    s.stack.length < Config.stackCap := by
  by_contra hfull
  simp [trap, hfull] at h

theorem effect_stackBounded {s : State} {i : Instr} (h : s.stackBounded) (htrap : trap s i = none) :
    (effect s i).stackBounded := by
  rcases effect_stack s i with hs | hs | ⟨⟨nnn, rfl⟩, hs⟩ <;> rw [State.stackBounded, hs]
  · exact h
  · exact (List.dropLast_sublist s.stack).length_le.trans h
  · simpa using stack_length_of_call htrap

/-- Where the step fetched, PC is at most 0xFFE, so the advance of R55 wraps nowhere. -/
theorem advance_pc_toNat {s : State} (hpc : s.pc.toNat ≤ 0xFFE) : (s.pc + 2).toNat = s.pc.toNat + 2 := by
  bv_omega

theorem effect_returnsBounded {s : State} {i : Instr} (h : s.returnsBounded) (hpc : s.pc.toNat ≤ 0xFFE) :
    (effect s i).returnsBounded := by
  rcases effect_stack s i with hs | hs | ⟨-, hs⟩ <;> rw [State.returnsBounded, hs]
  · exact h
  · exact fun w hw => h w (List.mem_of_mem_dropLast hw)
  · intro w hw
    rcases List.mem_append.mp hw with hw | hw
    · exact h w hw
    · rw [List.mem_singleton.mp hw, advance_pc_toNat hpc]
      omega

theorem advance_skipIf_pcBounded {s : State} (hpc : s.pc.toNat ≤ 0xFFE) (c : Bool) : (s.advance.skipIf c).pcBounded := by
  rw [State.pcBounded, State.advance_skipIf_pc]
  split_ifs <;> bv_omega

/-- The largest PC of R18 is that of `BFFF` with `V[0] = 0xFF`. -/
theorem zext_add_byteWord_toNat (nnn : Addr12) (b : Byte) :
    (zext nnn + byteWord b).toNat = nnn.toNat + b.toNat := by
  have := nnn.isLt
  have := b.isLt
  rw [BitVec.toNat_add, zext_toNat, byteWord_toNat]
  omega

theorem zext_pcBounded (nnn : Addr12) : (zext nnn).toNat ≤ 0x10FE := by
  have := nnn.isLt
  rw [zext_toNat]
  omega

theorem effect_pcBounded {s : State} (i : Instr) (hret : s.returnsBounded) (hpc : s.pc.toNat ≤ 0xFFE) :
    (effect s i).pcBounded := by
  cases i with
  | jp nnn | call nnn => exact zext_pcBounded nnn
  | jpV0 nnn =>
    have := nnn.isLt
    have := (s.reg 0).isLt
    exact (zext_add_byteWord_toNat nnn (s.reg 0)).trans_le (by omega)
  | ret =>
    show (s.stack.getLast?.getD 0).toNat ≤ 0x10FE
    cases hlast : s.stack.getLast? with
    | none => decide
    | some w => exact (hret w (List.mem_of_getLast? hlast)).trans (by decide)
  | seImm | sneImm | seReg | sneReg | skp | sknp => exact advance_skipIf_pcBounded hpc _
  | _ => exact (advance_pc_toNat hpc).trans_le (by omega)

theorem State.accessTrap_succ_eq_none {s : State} {n : Nat} (h : s.accessTrap (n + 1) = none) :
    s.base + (n + 1) ≤ Config.memSize := by
  by_contra hover
  simp [State.accessTrap, hover] at h

theorem effect_mem_wf {s : State} {i : Instr} (h : s.mem.wf = true) (htrap : trap s i = none) :
    (effect s i).mem.wf = true := by
  cases i with
  | ldB x => exact Memory.writeAll_wf h s.base _ (State.accessTrap_succ_eq_none (n := 2) htrap)
  | stRegs x =>
    exact Memory.writeAll_wf h s.base _ (by rw [State.regsUpTo_length]; exact State.accessTrap_succ_eq_none htrap)
  | seImm | sneImm | seReg | sneReg | skp | sknp => exact (congrArg Memory.wf (State.skipIf_mem _ _)).trans h
  | _ => exact h

/-! ### One step -/

theorem State.pc_le_of_fetch {s : State} {w : Word} (h : s.fetch = .ok w) : s.pc.toNat ≤ 0xFFE := by
  by_contra hpc
  rw [State.fetch_of_lt (not_le.mp hpc)] at h
  cases h

theorem effect_inv {s : State} {i : Instr} (h : s.Inv) (hfault : s.fault = none) (hpc : s.pc.toNat ≤ 0xFFE)
    (htrap : trap s i = none) : (effect s i).Inv where
  stackBounded := effect_stackBounded h.stackBounded htrap
  returnsBounded := effect_returnsBounded h.returnsBounded hpc
  pcBounded := effect_pcBounded i h.returnsBounded hpc
  latchesExclusive := .inr (by rw [effect_fault, hfault]; rfl)
  faultAtPc := fun r hr => by rw [effect_fault, hfault] at hr; cases hr
  memWf := effect_mem_wf h.memWf htrap

theorem advance_inv {s : State} (h : s.Inv) (hfault : s.fault = none) (hpc : s.pc.toNat ≤ 0xFFE) : s.advance.Inv where
  stackBounded := h.stackBounded
  returnsBounded := h.returnsBounded
  pcBounded := (advance_pc_toNat hpc).trans_le (by omega)
  latchesExclusive := .inr (by rw [State.advance_fault, hfault]; rfl)
  faultAtPc := fun r hr => by rw [State.advance_fault, hfault] at hr; cases hr
  memWf := h.memWf

theorem step_inv {s t : State} (h : s.Inv) (hstep : step s = .next t) : t.Inv := by
  rcases step_cases hstep with ⟨-, rfl⟩ | ⟨hrun, e, -, rfl⟩ | ⟨hrun, w, u, hw, -, rfl⟩ | ⟨hrun, w, i, hw, -, hexec⟩
  · exact h
  · exact h.takeFault (s.isRunning_iff.mp hrun).2.2 none e
  · exact advance_inv h (s.isRunning_iff.mp hrun).2.1 (State.pc_le_of_fetch hw)
  · obtain ⟨-, hfault, hwait⟩ := s.isRunning_iff.mp hrun
    rcases exec_cases hexec with ⟨htrap, rfl⟩ | ⟨e, -, rfl⟩
    · exact effect_inv h hfault (State.pc_le_of_fetch hw) htrap
    · exact h.takeFault hwait _ e

theorem step_font {s t : State} (hstep : step s = .next t) : t.mem.font = s.mem.font := by
  rcases step_cases hstep with ⟨-, rfl⟩ | ⟨-, e, -, rfl⟩ | ⟨-, w, u, -, -, rfl⟩ | ⟨-, w, i, -, -, hexec⟩
  · rfl
  · rfl
  · rfl
  · exact (exec_unchanged hexec).font

/-! ### The other transactions -/

theorem resetMachine_inv (s : State) : (resetMachine s).Inv :=
  (construct_inv s.mem.font).congr rfl rfl rfl rfl (.inl rfl)

theorem load_of_le {image : List Byte} (s : State) (h : image.length ≤ maxImage) :
    load image s = (true, (resetMachine s).setMem ((resetMachine s).mem.writeAll Config.progBase image)) :=
  if_neg (not_lt.mpr h)

theorem load_of_lt {image : List Byte} (s : State) (h : maxImage < image.length) :
    load image s = (false, takeFault (resetMachine s) none ⟨.programTooLarge, some image.length⟩) :=
  if_pos h

theorem load_inv (image : List Byte) (s : State) : (load image s).2.Inv := by
  have hreset := resetMachine_inv s
  by_cases h : maxImage < image.length
  · rw [load_of_lt s h]
    exact hreset.takeFault rfl none _
  · have hfits : Config.progBase + image.length ≤ Config.memSize := Nat.add_le_of_le_sub' (by decide) (not_lt.mp h)
    rw [load_of_le s (not_lt.mp h)]
    exact { hreset with memWf := Memory.writeAll_wf hreset.memWf Config.progBase image hfits }

theorem load_font (image : List Byte) (s : State) : (load image s).2.mem.font = s.mem.font := by
  by_cases h : maxImage < image.length
  · rw [load_of_lt s h]
    rfl
  · rw [load_of_le s (not_lt.mp h)]
    exact Memory.writeAll_font _ _ image

theorem setKey_of_le {k : Nat} (h : 16 ≤ k) (p : Bool) (s : State) : setKey k p s = s := dif_neg (not_lt.mpr h)

theorem setKey_release {k : Nat} (h : k < 16) (s : State) : setKey k false s = s.setKeys (s.keys.set k false) := dif_pos h

theorem setKey_press_of_none {k : Nat} (h : k < 16) {s : State} (hwait : s.wait = none) :
    setKey k true s = s.setKeys (s.keys.set k true) := by
  simp [setKey, h, resolveWait, hwait]

theorem setKey_press_of_some {k : Nat} (h : k < 16) {s : State} {x : RegIdx} (hwait : s.wait = some x) :
    setKey k true s = ((s.setKeys (s.keys.set k true)).setReg x (BitVec.ofNat 8 k)).setWait none := by
  simp [setKey, h, resolveWait, hwait]

/-- A key event writes KEY, and a press that resolves a wait writes a register and clears the wait besides. -/
theorem setKey_cases (k : Nat) (p : Bool) (s : State) :
    setKey k p s = s ∨ (∃ keys, setKey k p s = s.setKeys keys) ∨
      ∃ keys x b, setKey k p s = ((s.setKeys keys).setReg x b).setWait none := by
  rcases le_or_gt 16 k with hk | hk
  · exact .inl (setKey_of_le hk p s)
  · cases p with
    | false => exact .inr (.inl ⟨_, setKey_release hk s⟩)
    | true =>
      cases hwait : s.wait with
      | none => exact .inr (.inl ⟨_, setKey_press_of_none hk hwait⟩)
      | some x => exact .inr (.inr ⟨_, x, _, setKey_press_of_some hk hwait⟩)

theorem setKey_inv {s : State} (h : s.Inv) (k : Nat) (p : Bool) : (setKey k p s).Inv := by
  rcases setKey_cases k p s with heq | ⟨keys, heq⟩ | ⟨keys, x, b, heq⟩ <;> rw [heq]
  · exact h
  · exact h.congr rfl rfl rfl rfl (.inl rfl)
  · exact h.congr rfl rfl rfl rfl (.inr rfl)

theorem setKey_mem (k : Nat) (p : Bool) (s : State) : (setKey k p s).mem = s.mem := by
  rcases setKey_cases k p s with heq | ⟨keys, heq⟩ | ⟨keys, x, b, heq⟩ <;> rw [heq] <;> rfl

theorem apply_inv {s : State} (h : s.Inv) (x : Transaction) : (x.apply s).2.Inv := by
  cases x with
  | step =>
    obtain ⟨t, ht⟩ := step_next s
    rw [Transaction.apply_step, stepState_of_next ht]
    exact step_inv h ht
  | setKey k p => exact setKey_inv h k p
  | reset => exact resetMachine_inv s
  | load image => exact load_inv image s
  | tickTimer | pause | resume | frameReport => exact h.congr rfl rfl rfl rfl (.inl rfl)
  | snapshot | setTurbo | setTurboSpeed => exact h

theorem apply_font (s : State) (x : Transaction) : (x.apply s).2.mem.font = s.mem.font := by
  cases x with
  | step =>
    obtain ⟨t, ht⟩ := step_next s
    rw [Transaction.apply_step, stepState_of_next ht]
    exact step_font ht
  | setKey k p => exact congrArg Memory.font (setKey_mem k p s)
  | load image => exact load_font image s
  | _ => rfl

/-! ### The statements -/

/-- Settles O15: at construction the stack and the latches are empty, PC is 0x200 and no cell is listed. -/
theorem invariantAtReset : Obligations.InvariantAtReset := ⟨construct_inv defaultFont, construct_inv⟩

/-- Settles O16: a step that is not idle fetched, so PC was at most 0xFFE and no latch was set; from there the completed
instruction keeps each clause, and fault entry records the PC that stays. -/
theorem stepKeepsInvariant : Obligations.StepKeepsInvariant := fun _ _ => step_inv

/-- Settles O17: the step by the step's lemma, reset and load from the state at construction, and every other
transaction because it writes none of the elements the invariant speaks of, or only clears the wait. -/
theorem transactionsKeepInvariant : Obligations.TransactionsKeepInvariant :=
  fun x s => ⟨fun h => apply_inv h x, apply_font s x⟩

end Sys2Proof.Machine
end

section
/-! What the host can do besides `step()` (spec/60_exceptions.md R109 to R124; spec/70_reset_and_hazards.md R130 to R133),
the placing of a word (log 18), and the statements of that family. -/

namespace Sys2Proof.Machine

/-! ### Reset and load -/

/-- Settles O18: each element is read off the state at construction, whose memory lists no cell. -/
theorem resetGivesTable : Obligations.ResetGivesTable := by
  intro s
  refine ⟨rfl, fun k => State.construct_reg s.mem.font k, rfl, rfl, rfl, fun a => rfl,
    fun r c => Framebuffer.get_blank r c, fun k => ?_, rfl, rfl, rfl, rfl, rfl, rfl, rfl⟩
  exact Vector.getElem_replicate k.isLt

/-- Settles O19: an image that fits is written over the reset memory, inside the address space; a longer one takes the
fault in the reset state. -/
theorem loadCopiesOrRefuses : Obligations.LoadCopiesOrRefuses := by
  intro image s
  refine ⟨fun hle => ?_, fun hlt => load_of_lt s hlt⟩
  have hfits : 0x200 + image.length ≤ Config.memSize := Nat.add_le_add_left hle 0x200
  rw [load_of_le s hle]
  refine ⟨rfl, rfl, Memory.writeAll_font _ _ image, fun k hk => ?_, fun a ha => ?_⟩
  · exact Memory.read_writeAll (resetMachine_inv s).memWf 0x200 image hfits k hk
  · exact Memory.read_writeAll_outside _ 0x200 image a ha

/-! ### The timer tick -/

theorem countDown_toNat (b : Byte) : (countDown b).toNat = b.toNat - 1 := by
  unfold countDown
  split_ifs with h
  · simp [h]
  · bv_omega

theorem bne_zero_eq_decide (b : Byte) : (b != 0) = decide (b.toNat ≠ 0) := by
  rw [Bool.eq_iff_iff]
  simp [← BitVec.toNat_inj]

/-- Settles O48: the tick writes the two timers, each counted down, and compares the new ST with 0. -/
theorem tickCountsDown : Obligations.TickCountsDown := by
  intro s
  exact ⟨countDown_toNat s.dt, countDown_toNat s.st, bne_zero_eq_decide (countDown s.st), rfl⟩

/-! ### Key events -/

theorem State.setKeys_get_set (s : State) {k : Nat} (hk : k < 16) (p : Bool) (j : Fin 16) :
    (s.keys.set k p)[j.val] = if j.val = k then p else s.keys[j.val] := by
  rw [Vector.getElem_set]
  simp only [eq_comm]

/-- Settles O49: the event writes its key, and only a press with a wait pending writes more, the waiting register and
the wait. -/
theorem keyEventResults : Obligations.KeyEventResults := by
  intro s k p
  refine ⟨fun hk => setKey_of_le hk p s, fun hk => ?_⟩
  cases p with
  | false =>
    rw [setKey_release hk s]
    exact ⟨s.setKeys_get_set hk false, fun _ => rfl, fun x hp => by cases hp⟩
  | true =>
    rcases Option.eq_none_or_eq_some s.wait with hwait | ⟨x, hwait⟩
    · rw [setKey_press_of_none hk hwait]
      exact ⟨s.setKeys_get_set hk true, fun _ => rfl, fun x _ hx => by simp [hwait] at hx⟩
    · rw [setKey_press_of_some hk hwait]
      refine ⟨s.setKeys_get_set hk true, fun h => by simp [hwait] at h, fun y _ hy => ⟨rfl, fun j => ?_, rfl⟩⟩
      obtain rfl : x = y := Option.some.inj (hwait.symm.trans hy)
      rw [State.setWait_reg, State.reg_setReg, apply_ite BitVec.toNat, BitVec.toNat_ofNat, State.setKeys_reg,
        Nat.mod_eq_of_lt (by omega)]

/-! ### Pause, resume, snapshot, frame report, and a fault across transactions -/

/-- Settles O51: each writes PAUSED alone, and the run state is read off the three latches. -/
theorem pauseAndResume : Obligations.PauseAndResume := by
  intro s
  refine ⟨rfl, rfl, rfl, ?_, ?_⟩
  · cases hf : s.fault <;> cases hw : s.wait <;> simp [resume, State.runState, hf, hw]
  · cases hf : s.fault <;> cases hw : s.wait <;> simp [resume, State.runState, hf, hw]

/-- Settles O52: the snapshot only reads, and the frame report writes DIRTY alone. -/
theorem snapshotAndFrameReport : Obligations.SnapshotAndFrameReport := fun _ => ⟨rfl, rfl, rfl⟩

theorem setKey_fault (k : Nat) (p : Bool) (s : State) : (setKey k p s).fault = s.fault := by
  rcases setKey_cases k p s with heq | ⟨keys, heq⟩ | ⟨keys, x, b, heq⟩ <;> rw [heq] <;> rfl

/-- Settles O50: with a fault recorded the gate is closed, so the step is idle, and none of the others writes FAULT. -/
theorem faultIsSticky : Obligations.FaultIsSticky := by
  intro x s r hr hreset hload
  cases x with
  | step =>
    have hidle : s.isRunning = false := s.isRunning_eq_false_iff.mpr (.inr (.inl (by simp [hr])))
    rw [Transaction.apply_step, stepState_of_next (step_of_not_running hidle), hr]
  | setKey k p => exact (setKey_fault k p s).trans hr
  | reset => exact absurd rfl hreset
  | load image => exact absurd rfl (hload image)
  | _ => exact hr

/-! ### The placing of a word (log 18) -/

theorem tableWord_toNat (w : Word) : tableWord 16 w.toNat = w := by
  rw [tableWord, Nat.mod_eq_of_lt w.isLt, BitVec.ofNat_toNat, BitVec.setWidth_eq]

theorem placeWord_isRunning (s : State) (w : Word) : (s.placeWord w).isRunning = true :=
  (State.isRunning_iff _).mpr ⟨rfl, rfl, rfl⟩

theorem placeWord_pc (s : State) (w : Word) :
    (s.placeWord w).pc = if s.pc.toNat + 1 < Config.memSize then s.pc else 0x200 := rfl

theorem placeWord_mem (s : State) (w : Word) :
    (s.placeWord w).mem = s.mem.writeAll (s.placeWord w).pc.toNat [hiByte w, loByte w] := rfl

/-- Both bytes fit where the word is placed. -/
theorem placeWord_pc_lt (s : State) (w : Word) : (s.placeWord w).pc.toNat + 1 < Config.memSize := by
  rw [placeWord_pc]
  split_ifs with h
  · exact h
  · decide

theorem placeWord_fetch {s : State} (hwf : s.mem.wf = true) (w : Word) : (s.placeWord w).fetch = .ok w := by
  have hlt := placeWord_pc_lt s w
  have hread := Memory.read_writeAll hwf (s.placeWord w).pc.toNat [hiByte w, loByte w] hlt
  rw [State.fetch_eq, if_pos hlt, placeWord_mem]
  exact congrArg Except.ok ((congrArg₂ wordOfBytes (hread 0 (by simp)) (hread 1 (by simp))).trans
    (wordOfBytes_hiByte_loByte w))

/-- Settles O11: the word's two bytes are written where PC then points, and with the latches cleared the next step
fetches them back. -/
theorem placedWordRunsNext : Obligations.PlacedWordRunsNext := by
  intro s w i hwf hdecode
  have hplace : s.withFetchWord 16 w.toNat = s.placeWord w := congrArg s.placeWord (tableWord_toNat w)
  rw [hplace]
  refine ⟨step_of_decode (placeWord_isRunning s w) (placeWord_fetch hwf w) hdecode, rfl, ?_, ?_, fun a h0 h1 => ?_⟩
  · exact if_congr (Nat.lt_succ_iff) rfl rfl
  · exact Memory.writeAll_font _ _ _
  · rw [placeWord_mem]
    exact Memory.read_writeAll_outside _ _ _ a (by simp; omega)

end Sys2Proof.Machine
end

section
/-! The arithmetic instructions: values and flags as numbers (spec/44_register_alu.md R82 to R93), and the statements of
that family. -/

namespace Sys2Proof.Machine

/-! ### Results and flags as numbers (R9, R94) -/

theorem sumByte_toNat (a b : Byte) : (sumByte a b).toNat = (a.toNat + b.toNat) % 256 := BitVec.toNat_add a b

theorem diffByte_toNat (a b : Byte) : (diffByte a b).toNat = (256 + a.toNat - b.toNat) % 256 := by
  have := b.isLt
  rw [diffByte, BitVec.toNat_sub]
  omega

theorem shrByte_toNat (b : Byte) : (shrByte b).toNat = b.toNat / 2 := by
  rw [shrByte, BitVec.toNat_ushiftRight, Nat.shiftRight_one]

theorem shlByte_toNat (b : Byte) : (shlByte b).toNat = b.toNat * 2 % 256 := by
  rw [shlByte, BitVec.toNat_shiftLeft, Nat.shiftLeft_eq]

theorem flagByte_decide_toNat (p : Prop) [Decidable p] : (flagByte (decide p)).toNat = if p then 1 else 0 := by
  by_cases h : p <;> simp [flagByte, h]

theorem flagByte_shrOut_toNat (b : Byte) : (flagByte (shrOut b)).toNat = b.toNat % 2 := by
  have hbit : shrOut b = decide (b.toNat % 2 = 1) := by
    rw [shrOut, BitVec.getLsbD, Nat.testBit_zero]
  rw [hbit, flagByte_decide_toNat]
  split_ifs <;> omega

theorem flagByte_shlOut_toNat (b : Byte) : (flagByte (shlOut b)).toNat = b.toNat / 128 := by
  have hbit : shlOut b = decide (b.toNat / 128 % 2 = 1) := by
    rw [shlOut, BitVec.getLsbD, Nat.testBit_eq_decide_div_mod_eq]
  have := b.isLt
  rw [hbit, flagByte_decide_toNat]
  split_ifs <;> omega

/-! ### The two write orders (R87) -/

/-- What an instruction leaves that advances, writes `r` to `V[x]`, then the flag: the flag stays for x = F. -/
theorem resultThenFlag_result {s : State} {i : Instr} {x : RegIdx} {r : Byte} {flag : Bool} {m c : Nat}
    (hexec : exec i s = .next (s.advance.resultThenFlag x r flag)) (hr : r.toNat = m) (hc : (flagByte flag).toNat = c) :
    ∃ t, exec i s = .next t ∧ t.pc = s.pc + 2 ∧ (x ≠ 0xF → (t.reg x).toNat = m) ∧ (t.reg 0xF).toNat = c ∧
      ∀ j, j ≠ x → j ≠ 0xF → t.reg j = s.reg j := by
  refine ⟨_, hexec, rfl, fun hx => ?_, ?_, fun j hjx hjf => ?_⟩
  · rw [State.reg_resultThenFlag, if_neg hx, if_pos rfl, hr]
  · rw [State.reg_resultThenFlag, if_pos rfl, hc]
  · rw [State.reg_resultThenFlag, if_neg hjf, if_neg hjx, State.advance_reg]

/-- What an instruction leaves that advances, writes the flag, then `r` to `V[x]`: the result stays for x = F. -/
theorem flagThenResult_result {s : State} {i : Instr} {x : RegIdx} {r : Byte} {flag : Bool} {m c : Nat}
    (hexec : exec i s = .next (s.advance.flagThenResult x r flag)) (hr : r.toNat = m) (hc : (flagByte flag).toNat = c) :
    ∃ t, exec i s = .next t ∧ t.pc = s.pc + 2 ∧ (t.reg x).toNat = m ∧ (x ≠ 0xF → (t.reg 0xF).toNat = c) ∧
      ∀ j, j ≠ x → j ≠ 0xF → t.reg j = s.reg j := by
  refine ⟨_, hexec, rfl, ?_, fun hx => ?_, fun j hjx hjf => ?_⟩
  · rw [State.reg_flagThenResult, if_pos rfl, hr]
  · rw [State.reg_flagThenResult, if_neg hx.symm, if_pos rfl, hc]
  · rw [State.reg_flagThenResult, if_neg hjx, if_neg hjf, State.advance_reg]

/-! ### The statements -/

/-- Settles O21: both only advance and write V[x]; the immediate's sum is taken modulo 256. -/
theorem addImmediateAndOrResults : Obligations.AddImmediateAndOrResults := by
  intro s x y nn
  refine ⟨?_, ?_⟩
  · refine ⟨effect s (.addImm x nn), exec_of_trap_none rfl, rfl, ?_, fun j hj => s.advance.reg_setReg_ne x j _ hj⟩
    exact (congrArg BitVec.toNat (s.advance.reg_setReg_same x _)).trans (sumByte_toNat (s.reg x) nn)
  · obtain ⟨t, hexec, hpc, -, hreg⟩ := writeReg_result (exec_of_trap_none (s := s) (i := .orReg x y) rfl)
    exact ⟨t, hexec, hpc, hreg⟩

/-- Settles O22: the sum is written before the carry, both read from the old operands. -/
theorem addCarryResult : Obligations.AddCarryResult := by
  intro s x y
  exact resultThenFlag_result (exec_of_trap_none rfl) (sumByte_toNat _ _) (flagByte_decide_toNat _)

/-- Settles O23: the strict comparison is written before the difference, both read from the old operands. -/
theorem subtractResults : Obligations.SubtractResults := by
  intro s x y
  exact ⟨flagThenResult_result (exec_of_trap_none rfl) (diffByte_toNat _ _) (flagByte_decide_toNat _),
    flagThenResult_result (exec_of_trap_none rfl) (diffByte_toNat _ _) (flagByte_decide_toNat _)⟩

/-- Settles O24: the bit shifted out is written before the shifted value, both read from the old V[x]. -/
theorem shiftResults : Obligations.ShiftResults := by
  intro s x y
  exact ⟨flagThenResult_result (exec_of_trap_none rfl) (shrByte_toNat _) (flagByte_shrOut_toNat _),
    flagThenResult_result (exec_of_trap_none rfl) (shlByte_toNat _) (flagByte_shlOut_toNat _)⟩

/-- Settles O25: the draw at the old counter goes to V[x] under the mask, and the counter moves on. -/
theorem randomResult : Obligations.RandomResult := by
  intro s x nn
  exact ⟨effect s (.rnd x nn), exec_of_trap_none rfl, rfl, rfl, fun j => s.advance.reg_setReg x j _⟩

end Sys2Proof.Machine
end

section
/-! Call and return together, the jump through V0, the self-loop and the key skips (spec/42_control_flow.md R67 to R70;
spec/43_skips.md R78 to R80), and the statements of that family. -/

namespace Sys2Proof.Machine

/-! ### The key a register names (R80) -/

theorem State.pressed_of_eq {s : State} {b : Byte} {k : Fin 16} (h : b.toNat = k.val) : s.pressed b = s.keys[k.val] := by
  unfold State.pressed
  rw [dif_pos (h.trans_lt k.isLt)]
  simp only [h]

theorem State.pressed_of_le {s : State} {b : Byte} (h : 16 ≤ b.toNat) : s.pressed b = false := dif_neg (not_lt.mpr h)

/-! ### The statements -/

/-- Settles O29: below capacity the call left its own a + 2 on top of the old stack, and that is what the return pops. -/
theorem callThenReturn : Obligations.CallThenReturn := by
  intro s t u nnn hroom hcall hstack
  rw [exec_call_of_lt nnn hroom] at hcall
  cases hcall
  exact ⟨_, exec_ret_of_append hstack, rfl, rfl⟩

/-- Settles O30: the 16-bit sum of a 12-bit address and a byte does not wrap. -/
theorem jumpV0Result : Obligations.JumpV0Result := by
  intro s nnn
  exact ⟨effect s (.jpV0 nnn), exec_of_trap_none rfl, zext_add_byteWord_toNat nnn (s.reg 0)⟩

/-- Settles O32: both only advance and may skip, on the key named, which above 15 is none. -/
theorem keySkipResults : Obligations.KeySkipResults := by
  intro s x
  refine ⟨_, _, exec_of_trap_none (i := .skp x) rfl, exec_of_trap_none (i := .sknp x) rfl, fun k hk => ?_, fun hk => ?_⟩
  · rw [effect, effect, State.advance_skipIf_pc, State.advance_skipIf_pc, State.pressed_of_eq hk]
    cases s.keys[k.val] <;> exact ⟨rfl, rfl⟩
  · rw [effect, effect, State.advance_skipIf_pc, State.advance_skipIf_pc, State.pressed_of_le hk]
    exact ⟨rfl, rfl⟩

/-- Settles O33: the fetched word decodes to the jump, which writes back the PC it began with. -/
theorem selfLoopRepeats : Obligations.SelfLoopRepeats := by
  rintro s ⟨hrun, nnn, hself, hfetch⟩
  rw [step_of_decode hrun hfetch (decode_encode _), exec_jp, hself, State.setPc_self]

end Sys2Proof.Machine
end

section
/-! Index arithmetic, the register range stored and loaded at `I` (spec/45_index_memory.md R96 to R101) and stored code
(spec/20_memory.md R41), and the statements of that family. -/

namespace Sys2Proof.Machine

/-! ### One rule per outcome of Fx55 and Fx65 -/

theorem exec_stRegs_of_le {s : State} (x : RegIdx) (h : s.base + (x.val + 1) ≤ Config.memSize) :
    exec (.stRegs x) s = .next (s.advance.setMem (s.mem.writeAll s.base (s.regsUpTo x))) :=
  (exec_stRegs_eq x s).trans (if_pos h)

theorem exec_stRegs_of_not_le {s : State} (x : RegIdx) (h : ¬s.base + (x.val + 1) ≤ Config.memSize) :
    exec (.stRegs x) s = .next (takeFault s (some (encode (.stRegs x))) (outOfBounds (max s.base Config.memSize))) :=
  (exec_stRegs_eq x s).trans (if_neg h)

theorem exec_ldRegs_of_le {s : State} (x : RegIdx) (h : s.base + (x.val + 1) ≤ Config.memSize) :
    exec (.ldRegs x) s = .next (s.advance.setV (loadRegs s.v 0 (bytesAt s.mem s.base (x.val + 1)))) :=
  (execLdRegs_eq x s).trans (if_pos h)

theorem exec_ldRegs_of_not_le {s : State} (x : RegIdx) (h : ¬s.base + (x.val + 1) ≤ Config.memSize) :
    exec (.ldRegs x) s = .next (takeFault s (some (encode (.ldRegs x))) (outOfBounds (max s.base Config.memSize))) :=
  (execLdRegs_eq x s).trans (if_neg h)

/-- Each register stored reads back from its address (R99). -/
theorem read_writeAll_regsUpTo {s : State} (hwf : s.mem.wf = true) {x k : RegIdx} (hk : k.val ≤ x.val)
    (h : s.base + (x.val + 1) ≤ Config.memSize) :
    (s.mem.writeAll s.base (s.regsUpTo x)).read (s.base + k.val) = s.reg k := by
  have hlen : k.val < (s.regsUpTo x).length := by rw [State.regsUpTo_length]; omega
  rw [Memory.read_writeAll hwf s.base _ (by rwa [State.regsUpTo_length]) k.val hlen, State.regsUpTo_getElem]

/-- The registers after a load of `n` bytes from address `a` up to `V[0]` and on (R100). -/
theorem loadRegs_bytesAt (v : Vector Byte 16) (m : Memory) (a n : Nat) (k : RegIdx) :
    (loadRegs v 0 (bytesAt m a n))[k.val] = if k.val < n then m.read (a + k.val) else v[k.val] := by
  rw [loadRegs_getElem]
  by_cases hk : k.val < n
  · rw [dif_pos (by simpa using hk), if_pos hk, bytesAt_getElem, Nat.sub_zero]
  · rw [dif_neg (by simpa using hk), if_neg hk]

/-! ### The statements -/

/-- Settles O35: the 16-bit addition is the sum modulo 65536, and V[x] * 5 fits in 16 bits. -/
theorem indexArithmeticResults : Obligations.IndexArithmeticResults := by
  intro s x
  refine ⟨⟨effect s (.addI x), exec_of_trap_none rfl, rfl, ?_, fun _ => rfl⟩,
    ⟨effect s (.ldF x), exec_of_trap_none rfl, rfl, glyphAddr_toNat (s.reg x)⟩⟩
  exact (BitVec.toNat_add _ _).trans (by rw [byteWord_toNat])

/-- Settles O37: inside the bound every byte is written and reads back; past it fault entry records max(I, 0x1000) and
keeps everything but the record. -/
theorem storeRegistersResult : Obligations.StoreRegistersResult := by
  intro s x hwf
  refine ⟨fun hfits => ?_, fun hover => ?_⟩
  · have hle : s.base + (x.val + 1) ≤ Config.memSize := Nat.succ_le_succ hfits
    exact ⟨_, exec_stRegs_of_le x hle, rfl, rfl, rfl, fun k hk => read_writeAll_regsUpTo hwf hk hle⟩
  · exact exec_stRegs_of_not_le x (Nat.succ_lt_succ hover).not_ge

/-- Settles O38: inside the bound V[0..x] take the bytes read; past it fault entry records max(I, 0x1000) and keeps
everything but the record. -/
theorem loadRegistersResult : Obligations.LoadRegistersResult := by
  intro s x
  refine ⟨fun hfits => ?_, fun hover => ?_⟩
  · refine ⟨_, exec_ldRegs_of_le x (Nat.succ_le_succ hfits), rfl, rfl, rfl, fun k => ?_⟩
    exact (loadRegs_bytesAt s.v s.mem s.base (x.val + 1) k).trans (if_congr Nat.lt_succ_iff rfl rfl)
  · exact exec_ldRegs_of_not_le x (Nat.succ_lt_succ hover).not_ge

/-- Settles O39: the store leaves V[0] and V[1] at I and I + 1, which are the two bytes the fetch reads. -/
theorem storedCodeIsFetched : Obligations.StoredCodeIsFetched := by
  intro s t u x hwf hx hfits hexec hmem hpc
  have hle : s.base + (x.val + 1) ≤ Config.memSize := Nat.succ_le_succ hfits
  rw [exec_stRegs_of_le x hle] at hexec
  cases hexec
  have hi : u.pc.toNat = s.base := congrArg BitVec.toNat hpc
  have hhi : u.mem.read s.base = s.reg 0 := hmem ▸ read_writeAll_regsUpTo hwf (k := 0) (Nat.zero_le _) hle
  have hlo : u.mem.read (s.base + 1) = s.reg 1 := hmem ▸ read_writeAll_regsUpTo hwf (k := 1) hx hle
  rw [State.fetch_of_le (by rw [hi]; exact (Nat.add_le_add_left hx _).trans hfits), hi, hhi, hlo]
  rfl

end Sys2Proof.Machine
end

section
/-! The sound timer and the key wait (spec/46_timers_input.md R103, R105), and the two statements of that family. -/

namespace Sys2Proof.Machine

theorem tickTimer_tone (s : State) : (tickTimer s).1 = decide (1 < s.st.toNat) := by
  refine (bne_zero_eq_decide (countDown s.st)).trans (decide_eq_decide.mpr ?_)
  rw [countDown_toNat]
  omega

theorem exec_ldVxK (x : RegIdx) (s : State) : exec (.ldVxK x) s = .next (s.advance.setWait (some x)) := rfl

theorem exec_ldStVx (x : RegIdx) (s : State) : exec (.ldStVx x) s = .next (s.advance.setSt (s.reg x)) := rfl

/-- Settles O46: ST takes V[x], and one tick later it is still above 0 iff V[x] was above 1. -/
theorem soundTimerResult : Obligations.SoundTimerResult := by
  intro s x
  exact ⟨_, exec_ldStVx x s, rfl, rfl, tickTimer_tone _⟩

/-- Settles O47: the wait is the only element written besides PC, and it closes the gate of the next step. -/
theorem keyWaitArms : Obligations.KeyWaitArms := by
  intro s x
  refine ⟨_, exec_ldVxK x s, rfl, rfl, fun _ => rfl, step_of_not_running ?_⟩
  exact (State.isRunning_eq_false_iff _).mpr (.inr (.inr (Option.some_ne_none x)))

end Sys2Proof.Machine
end

section
/-! The clear and the sprite draw (spec/41_display.md R62 to R66), and the statements of that family. -/

namespace Sys2Proof.Machine

/-! ### `drawSprite` cell by cell (R63) -/

section
variable {fb : Framebuffer} {ox oy : Nat} {rows : List Byte} (hl : rows.length ≤ 32)
include hl

theorem drawSprite_get_of_hit {r : Fin Config.fbRows} {c : Fin Config.fbCols} (h : spriteHit ox oy rows r c) :
    (drawSprite fb ox oy rows).fb.get r c = !fb.get r c := by
  have hspec := (drawSprite_spec fb ox oy rows hl).1 r c
  rw [Bool.eq_iff_iff, hspec]
  simp [h]

theorem drawSprite_get_of_not_hit {r : Fin Config.fbRows} {c : Fin Config.fbCols} (h : ¬spriteHit ox oy rows r c) :
    (drawSprite fb ox oy rows).fb.get r c = fb.get r c := by
  have hspec := (drawSprite_spec fb ox oy rows hl).1 r c
  rw [Bool.eq_iff_iff, hspec]
  simp [h]

/-- The second draw meets the hit cells inverted by the first. -/
theorem drawSprite_twice_collision :
    (drawSprite (drawSprite fb ox oy rows).fb ox oy rows).collision = true ↔
      ∃ r c, spriteHit ox oy rows r c ∧ fb.get r c = false := by
  rw [(drawSprite_spec _ ox oy rows hl).2]
  refine exists_congr fun r => exists_congr fun c => and_congr_right fun h => ?_
  rw [drawSprite_get_of_hit hl h, Bool.not_eq_true']

end

/-- A cell hit is the cell that some set bit of some row falls on. -/
theorem exists_spriteHit_iff {ox oy : Nat} {rows : List Byte} {p : Fin Config.fbRows → Fin Config.fbCols → Prop} :
    (∃ r c, spriteHit ox oy rows r c ∧ p r c) ↔
      ∃ k j, ∃ h : k < rows.length, j < 8 ∧ rows[k].getLsbD (7 - j) = true ∧ p (wrapRow (oy + k)) (wrapCol (ox + j)) := by
  constructor
  · rintro ⟨r, c, ⟨k, j, hk, hj, hbit, rfl, rfl⟩, hp⟩
    exact ⟨k, j, hk, hj, hbit, hp⟩
  · rintro ⟨k, j, hk, hj, hbit, hp⟩
    exact ⟨_, _, ⟨k, j, hk, hj, hbit, rfl, rfl⟩, hp⟩

/-! ### What the dispatched `Dxyn` does, one rule per outcome (R64) -/

theorem exec_drw_of_fits {s : State} (x y : RegIdx) {n : Nibble} (h : n.toNat = 0 ∨ s.base + n.toNat ≤ Config.memSize) :
    exec (.drw x y n) s = .next (drawRows s x y (bytesAt s.mem s.base n.toNat)) :=
  (execDrw_eq x y n s).trans (if_pos h)

theorem exec_drw_of_not_fits {s : State} (x y : RegIdx) {n : Nibble}
    (h : ¬(n.toNat = 0 ∨ s.base + n.toNat ≤ Config.memSize)) :
    exec (.drw x y n) s =
      .next (takeFault s (some (encode (.drw x y n))) (outOfBounds (max s.base Config.memSize))) :=
  (execDrw_eq x y n s).trans (if_neg h)

theorem sprite_length_le (s : State) (n : Nibble) : (bytesAt s.mem s.base n.toNat).length ≤ 32 := by
  have := n.isLt
  rw [bytesAt_length]
  omega

/-- The cells hit by the sprite bytes in memory are those hit by the rows that `Dxyn` reads. -/
theorem spriteHits_iff (s : State) (x y : RegIdx) (n : Nibble) (r : Fin Config.fbRows) (c : Fin Config.fbCols) :
    spriteHits s x y n r.val c.val ↔
      spriteHit (s.reg x).toNat (s.reg y).toNat (bytesAt s.mem s.base n.toNat) r c := by
  constructor
  · rintro ⟨k, j, hk, hj, hbit, hr, hc⟩
    have hlen : k < (bytesAt s.mem s.base n.toNat).length := by rwa [bytesAt_length]
    refine ⟨k, j, hlen, hj, ?_, Fin.ext hr, Fin.ext hc⟩
    rwa [bytesAt_getElem]
  · rintro ⟨k, j, hk, hj, hbit, rfl, rfl⟩
    rw [bytesAt_getElem] at hbit
    rw [bytesAt_length] at hk
    exact ⟨k, j, hk, hj, hbit, rfl, rfl⟩

/-- VF after a completed `Dxyn` is the collision. -/
theorem drawRows_vf (s : State) (x y : RegIdx) (rows : List Byte) :
    (drawRows s x y rows).reg 0xF = flagByte (drawSprite s.fb (s.reg x).toNat (s.reg y).toNat rows).collision :=
  (drawRows_reg s x y rows 0xF).trans (if_pos rfl)

/-! ### The statements -/

/-- Settles O40: the grid written is the blank one, and DIRTY is set whatever the grid was. -/
theorem clearResult : Obligations.ClearResult := by
  intro s
  exact ⟨effect s .cls, exec_of_trap_none rfl, rfl, rfl, Framebuffer.get_blank⟩

/-- Settles O41: the sprite read is drawn cell by cell as `drawSprite` does, and VF is its collision. -/
theorem drawResult : Obligations.DrawResult := by
  intro s x y n hfits
  have hl := sprite_length_le s n
  refine ⟨_, exec_drw_of_fits x y hfits, rfl, rfl, rfl, rfl, fun r c hhit => ?_, fun r c hhit => ?_, ?_, fun hunlit => ?_⟩
  · exact drawSprite_get_of_hit hl ((spriteHits_iff s x y n r c).mp hhit)
  · exact drawSprite_get_of_not_hit hl (mt (spriteHits_iff s x y n r c).mpr hhit)
  · rintro ⟨r, c, hhit, hlit⟩
    have hcollision := (drawSprite_spec s.fb _ _ _ hl).2.mpr ⟨r, c, (spriteHits_iff s x y n r c).mp hhit, hlit⟩
    rw [drawRows_vf, hcollision, flagByte, if_pos rfl]
  · have hcollision := mt (drawSprite_spec s.fb (s.reg x).toNat (s.reg y).toNat _ hl).2.mp (by
      rintro ⟨r, c, hhit, hlit⟩
      simp [hunlit r c ((spriteHits_iff s x y n r c).mpr hhit)] at hlit)
    rw [drawRows_vf, flagByte, if_neg hcollision]

/-- Settles O42: the read of the sprite traps at max(I, 0x1000), and fault entry keeps everything but the record. -/
theorem drawFault : Obligations.DrawFault := by
  intro s x y n hpos hover
  have hnot : ¬(n.toNat = 0 ∨ s.base + n.toNat ≤ Config.memSize) :=
    not_or.mpr ⟨Nat.one_le_iff_ne_zero.mp hpos, not_le.mpr hover⟩
  exact exec_drw_of_not_fits x y hnot

/-- Settles O43: a hit cell is inverted twice and the others not at all. -/
theorem drawTwiceRestores : Obligations.DrawTwiceRestores := by
  intro fb ox oy rows hrows
  have hl : rows.length ≤ 32 := hrows.trans (by decide)
  refine Framebuffer.ext_get fun r c => ?_
  by_cases hhit : spriteHit ox oy rows r c
  · rw [drawSprite_get_of_hit hl hhit, drawSprite_get_of_hit hl hhit, Bool.not_not]
  · rw [drawSprite_get_of_not_hit hl hhit, drawSprite_get_of_not_hit hl hhit]

/-- Settles O44: a draw reports a collision iff a hit cell was lit, and before the second draw the hit cells lit are
those unlit before the first. -/
theorem repeatedDrawCollision : Obligations.RepeatedDrawCollision := by
  intro fb ox oy rows hrows
  have hl : rows.length ≤ 32 := hrows.trans (by decide)
  exact ⟨(drawSprite_spec fb ox oy rows hl).2.trans exists_spriteHit_iff,
    (drawSprite_twice_collision hl).trans exists_spriteHit_iff⟩

end Sys2Proof.Machine
end
